-- ==== Sys2Proof/Word.lean ====
section
/-! DEFINITION. The words of the machine: the 32-bit input word of the ports and the 8-bit data byte
(spec 30 R80, 20 R61, R64). Every value is unsigned (spec 00 R7). -/

namespace Sys2Proof

/-- One input word of a port, and the width of buffer addresses and lengths (spec 30 R80, 00 R6). -/
abbrev Word := BitVec 32

/-- One data byte (spec 00 R6 `DATA_W`). -/
abbrev Byte := BitVec 8

end Sys2Proof
end

