-- ==== Sys2Proof/Syntax.lean ====
section
/-! DEFINITION. The inputs of the block as syntax: one constructor of `Instr` for each row of
spec/opcode_table.json (15 commands, 6 events, 1 error word; spec 30 R82, R84, R85). -/

namespace Sys2Proof

/-- SCL speed of a configuration (spec 10 R29): `sm` is 0, standard mode, `fm` is 1, fast mode. -/
inductive Speed where
  | sm
  | fm
  deriving DecidableEq, Repr

/-- Fast-mode duty cycle (spec 10 R29): `d2` is 0, 2:1, `d16` is 1, 16:9. -/
inductive Duty where
  | d2
  | d16
  deriving DecidableEq, Repr

/-- The two interrupt lines (spec 10 R43, 60 R207): `ev` is 0, `er` is 1. -/
inductive Line where
  | ev
  | er
  deriving DecidableEq, Repr

/-- One input of the block. A one-bit operand is a `Bool`; the others are as wide as their field
(spec 30 R83, R84, R85). The bits the spec calls ignored (30 R81) are no part of an input. -/
inductive Instr where
  | clk (en : Bool)
  | init (own : BitVec 7) (speed : Speed) (duty : Duty) (ack : Bool)
  | deinit
  | pe (en : Bool)
  | gc (en : Bool)
  | cben (en : Bool)
  | irqen (line : Line) (en : Bool)
  | irqpri (line : Line) (prio : Byte)
  | mtx (dev : BitVec 7) (sr : Bool) (buf len : Word)
  | mrx (dev : BitVec 7) (sr : Bool) (buf len : Word)
  | closetx
  | closerx
  | stx (value : Byte)
  | srx
  | flag (index : BitVec 5)
  | evSb (msl tra : Bool)
  | evAddr (msl tra : Bool)
  | evBtf (msl tra : Bool)
  | evStopf (msl tra : Bool)
  | evRxne (msl tra : Bool)
  | evTxe (msl tra : Bool)
  | err (flags : BitVec 5)
  deriving DecidableEq, Repr

end Sys2Proof
end

