-- ==== Sys2Proof/WellFormed.lean ====
section
/-! DEFINITION. Which inputs are well formed. The operand types already bound every field; the one
further check the spec makes is on FLAG's index (spec 30 R91, 10 R45). -/

namespace Sys2Proof

/-- The fourteen flag indices of spec 10 R45, as spec 30 R91 lists them. -/
def flagIndices : List (BitVec 5) := [0, 1, 2, 4, 6, 7, 8, 9, 10, 11, 14, 16, 17, 18]

/-- Whether an index names one of the fourteen status flags (spec 30 R91). -/
def flagIndexLegal (index : BitVec 5) : Bool := flagIndices.contains index

/-- The well-formed inputs: every input but a FLAG query of an index that names no flag. -/
def Instr.wf : Instr → Bool
  | .flag index => flagIndexLegal index
  | .clk _ | .init _ _ _ _ | .deinit | .pe _ | .gc _ | .cben _ | .irqen _ _ | .irqpri _ _ => true
  | .mtx _ _ _ _ | .mrx _ _ _ _ | .closetx | .closerx | .stx _ | .srx => true
  | .evSb _ _ | .evAddr _ _ | .evBtf _ _ | .evStopf _ _ | .evRxne _ _ | .evTxe _ _ => true
  | .err _ => true

end Sys2Proof
end

