-- ==== Sys2Proof/Decode.lean ====
section
/-! DEFINITION. The decoder of input words, total on every list of words and rejecting by name, and the
encoder written from the same tables (spec 30). Bit fields are read here and nowhere else. -/

namespace Sys2Proof

/-! ## Fields of a word -/

/-- The field of `n` bits of `w` whose lowest bit is bit `lo` (spec 00 R7, `w[lo+n-1:lo]`). -/
def field (w : Word) (lo n : Nat) : BitVec n := w.extractLsb' lo n

/-- The one-bit field `w[i]` as a truth value. -/
def bitAt (w : Word) (i : Nat) : Bool := field w i 1 == 1#1

/-- Whether the `n` bits of `w` from bit `lo` up are all 0: the check of a reserved field (spec 30 R91). -/
def zeroAt (w : Word) (lo n : Nat) : Bool := field w lo n == 0#n

/-- The port class `w[31:30]` (spec 30 R80). -/
inductive PortClass where
  | command
  | event
  | error
  | reserved
  deriving DecidableEq, Repr

/-- Reads the class field (spec 30 R80): 00 command, 01 event, 10 error set, 11 reserved. -/
def portClass (w : Word) : PortClass :=
  if bitAt w 31 then (if bitAt w 30 then .reserved else .error)
  else (if bitAt w 30 then .event else .command)

/-- The opcode, event code or error opcode `w[29:24]` (spec 30 R81). -/
def opcodeOf (w : Word) : Nat := (field w 24 6).toNat

/-- Speed operand (spec 30 R83): 0 standard, 1 fast. -/
def speedOf (b : Bool) : Speed := if b then .fm else .sm

/-- Duty operand (spec 30 R83): 0 is 2:1, 1 is 16:9. -/
def dutyOf (b : Bool) : Duty := if b then .d16 else .d2

/-- Line operand (spec 30 R83): 0 is EV, 1 is ER. -/
def lineOf (b : Bool) : Line := if b then .er else .ev

/-! ## Decoding -/

/-- Why a sequence of words spells nothing (spec 30 R86, R91, 60 R202). -/
inductive DecodeError where
  /-- Class 11 (30 R86). -/
  | reservedClass
  /-- A class-00 word whose opcode is not in 30 R82. -/
  | unknownOpcode
  /-- A class-00 word with a reserved bit that is 1 (30 R91). -/
  | reservedBit
  /-- A FLAG word whose index names no flag (30 R91). -/
  | badFlagIndex
  /-- A C3 command cut short before its third word (60 R202), or no word at all. -/
  | truncated
  deriving DecidableEq, Repr

/-- What a sequence of words spells, with the words that follow it. -/
inductive Decoded where
  /-- An input of the opcode table. -/
  | instr (i : Instr) (rest : List Word)
  /-- A reserved event code or a reserved error opcode: well formed, and does nothing (30 R92). -/
  | ignored (rest : List Word)
  /-- Nothing: the input is refused (30 R86, R91). -/
  | illegal (why : DecodeError) (rest : List Word)
  deriving DecidableEq, Repr

/-- Whether a first word opens a C3 command, which two more words follow (spec 30 R94). -/
def isC3 (w : Word) : Bool := portClass w == .command && (opcodeOf w == 0x10 || opcodeOf w == 0x11)

/-- How many words an input has, told from its first word alone (spec 30 R94). -/
def inputLength (w : Word) : Nat := if isC3 w then 3 else 1

/-- A C1 command from its word (spec 30 R82, R83), checking the reserved bits of `w[23:0]` (R91). MTX and
MRX are read by `decodeC3`. -/
def decodeC1 (w : Word) : Except DecodeError Instr :=
  match opcodeOf w with
  | 0x01 => if zeroAt w 1 23 then .ok (.clk (bitAt w 0)) else .error .reservedBit
  | 0x02 =>
    if zeroAt w 11 13 && zeroAt w 7 1 then
      .ok (.init (field w 0 7) (speedOf (bitAt w 8)) (dutyOf (bitAt w 9)) (bitAt w 10))
    else .error .reservedBit
  | 0x03 => if zeroAt w 0 24 then .ok .deinit else .error .reservedBit
  | 0x04 => if zeroAt w 1 23 then .ok (.pe (bitAt w 0)) else .error .reservedBit
  | 0x05 => if zeroAt w 1 23 then .ok (.gc (bitAt w 0)) else .error .reservedBit
  | 0x06 => if zeroAt w 1 23 then .ok (.cben (bitAt w 0)) else .error .reservedBit
  | 0x07 =>
    if zeroAt w 2 22 then .ok (.irqen (lineOf (bitAt w 1)) (bitAt w 0)) else .error .reservedBit
  | 0x08 =>
    if zeroAt w 16 8 && zeroAt w 2 6 && zeroAt w 0 1 then
      .ok (.irqpri (lineOf (bitAt w 1)) (field w 8 8))
    else .error .reservedBit
  | 0x12 => if zeroAt w 0 24 then .ok .closetx else .error .reservedBit
  | 0x13 => if zeroAt w 0 24 then .ok .closerx else .error .reservedBit
  | 0x18 => if zeroAt w 8 16 then .ok (.stx (field w 0 8)) else .error .reservedBit
  | 0x19 => if zeroAt w 0 24 then .ok .srx else .error .reservedBit
  | 0x20 =>
    if zeroAt w 5 19 then
      (if flagIndexLegal (field w 0 5) then .ok (.flag (field w 0 5)) else .error .badFlagIndex)
    else .error .reservedBit
  | _ => .error .unknownOpcode

/-- MTX or MRX from its three words (spec 30 R81, R83); `w` is known to open a C3 command. -/
def decodeC3 (w buf len : Word) : Except DecodeError Instr :=
  if zeroAt w 8 16 then
    (if opcodeOf w == 0x10 then .ok (.mtx (field w 0 7) (bitAt w 7) buf len)
     else .ok (.mrx (field w 0 7) (bitAt w 7) buf len))
  else .error .reservedBit

/-- An event word (spec 30 R84), `none` for a reserved code (R92). Bits 23:10 and 7:0 are ignored (R81). -/
def decodeEvent (w : Word) : Option Instr :=
  match opcodeOf w with
  | 0x00 => some (.evSb (bitAt w 8) (bitAt w 9))
  | 0x01 => some (.evAddr (bitAt w 8) (bitAt w 9))
  | 0x02 => some (.evBtf (bitAt w 8) (bitAt w 9))
  | 0x04 => some (.evStopf (bitAt w 8) (bitAt w 9))
  | 0x06 => some (.evRxne (bitAt w 8) (bitAt w 9))
  | 0x07 => some (.evTxe (bitAt w 8) (bitAt w 9))
  | _ => none

/-- An error word (spec 30 R85), `none` for a reserved opcode (R92). Bits 23:5 are ignored (R81). -/
def decodeError (w : Word) : Option Instr :=
  if opcodeOf w == 0 then some (.err (field w 0 5)) else none

/-- A reading of a hardware-side word: a reserved one is well formed and does nothing (spec 30 R92). -/
def ofPort (o : Option Instr) (rest : List Word) : Decoded :=
  match o with
  | some i => .instr i rest
  | none => .ignored rest

/-- A reading of a command: one that spells nothing is refused under its reason (spec 30 R91). -/
def ofCommand (r : Except DecodeError Instr) (rest : List Word) : Decoded :=
  match r with
  | .ok i => .instr i rest
  | .error e => .illegal e rest

/-- The decoder: what the first words of a sequence spell, and the words after them. -/
def decode : List Word → Decoded
  | [] => .illegal .truncated []
  | w :: ws =>
    match portClass w with
    | .reserved => .illegal .reservedClass ws
    | .event => ofPort (decodeEvent w) ws
    | .error => ofPort (decodeError w) ws
    | .command =>
      if isC3 w then
        match ws with
        | buf :: len :: rest => ofCommand (decodeC3 w buf len) rest
        | _ => .illegal .truncated []
      else ofCommand (decodeC1 w) ws

/-! ## Encoding -/

/-- The one-bit value of a truth value. -/
def bit (b : Bool) : Nat := if b then 1 else 0

/-- The value of a speed operand (spec 30 R83). -/
def Speed.value : Speed → Nat
  | .sm => 0
  | .fm => 1

/-- The value of a duty operand (spec 30 R83). -/
def Duty.value : Duty → Nat
  | .d2 => 0
  | .d16 => 1

/-- The value of a line operand (spec 30 R83). -/
def Line.value : Line → Nat
  | .ev => 0
  | .er => 1

/-- Word 0 of a class-00 input from its opcode and the value of `w[23:0]` (spec 30 R81). -/
def commandWord (opcode body : Nat) : Word := BitVec.ofNat 32 (opcode * 2 ^ 24 + body)

/-- An event word with its ignored bits 0 (spec 30 R81, R84). -/
def eventWord (code : Nat) (msl tra : Bool) : Word :=
  BitVec.ofNat 32 (2 ^ 30 + code * 2 ^ 24 + bit tra * 2 ^ 9 + bit msl * 2 ^ 8)

/-- An error word with its ignored bits 0 (spec 30 R81, R85). -/
def errorWord (flags : BitVec 5) : Word := BitVec.ofNat 32 (2 ^ 31 + flags.toNat)

/-- The words of an input (spec 30 R81 to R85), ignored bits 0. -/
def encode : Instr → List Word
  | .clk en => [commandWord 0x01 (bit en)]
  | .init own speed duty ack =>
    [commandWord 0x02 (bit ack * 2 ^ 10 + duty.value * 2 ^ 9 + speed.value * 2 ^ 8 + own.toNat)]
  | .deinit => [commandWord 0x03 0]
  | .pe en => [commandWord 0x04 (bit en)]
  | .gc en => [commandWord 0x05 (bit en)]
  | .cben en => [commandWord 0x06 (bit en)]
  | .irqen line en => [commandWord 0x07 (line.value * 2 + bit en)]
  | .irqpri line prio => [commandWord 0x08 (prio.toNat * 2 ^ 8 + line.value * 2)]
  | .mtx dev sr buf len => [commandWord 0x10 (bit sr * 2 ^ 7 + dev.toNat), buf, len]
  | .mrx dev sr buf len => [commandWord 0x11 (bit sr * 2 ^ 7 + dev.toNat), buf, len]
  | .closetx => [commandWord 0x12 0]
  | .closerx => [commandWord 0x13 0]
  | .stx value => [commandWord 0x18 value.toNat]
  | .srx => [commandWord 0x19 0]
  | .flag index => [commandWord 0x20 index.toNat]
  | .evSb msl tra => [eventWord 0x00 msl tra]
  | .evAddr msl tra => [eventWord 0x01 msl tra]
  | .evBtf msl tra => [eventWord 0x02 msl tra]
  | .evStopf msl tra => [eventWord 0x04 msl tra]
  | .evRxne msl tra => [eventWord 0x06 msl tra]
  | .evTxe msl tra => [eventWord 0x07 msl tra]
  | .err flags => [errorWord flags]

/-! ## The opcode table's numbering -/

/-- Word `k` of a number whose least significant 32 bits are the first word. -/
def tableWord (nbits w k : Nat) : Word := BitVec.ofNat 32 (w % 2 ^ nbits / 2 ^ (32 * k))

/-- The three words of the longest input from the opcode table's numbering of its bits. -/
def tableWords (nbits w : Nat) : List Word := [tableWord nbits w 0, tableWord nbits w 1, tableWord nbits w 2]

/-- What the decoder reads from an input numbered as spec/opcode_table.json numbers it; the bits above
`nbits` are 0. -/
def decodeTableWord (nbits w : Nat) : Option Instr :=
  match decode (tableWords nbits w) with
  | .instr i _ => some i
  | .ignored _ => none
  | .illegal _ _ => none

end Sys2Proof
end

