-- ==== Sys2Proof/Config.lean ====
section
/-! DEFINITION. What the spec leaves to the implementation or to PERIPH: the OPEN timing functions, the
free values of data-register reads and flag queries, the launch parameters, and the thresholds whose
values the spec states (spec 00 R6). -/

namespace Sys2Proof

/-- `FREQ_FN` (spec 40 R113): OPEN, so nothing is known of it. -/
opaque Config.freqFn : Nat → Nat

/-- `CCR_FN` in standard mode, where it does not read the duty cycle (spec 40 R113): OPEN. -/
opaque Config.ccrStandard : Nat → Nat

/-- `CCR_FN` in fast mode, where it may read the duty cycle (spec 40 R113): OPEN. -/
opaque Config.ccrFast : Nat → Duty → Nat

/-- `TRISE_FN` (spec 40 R113): OPEN. -/
opaque Config.triseFn : Nat → Speed → Nat

/-- The byte PERIPH supplies at its k-th draw, a free value "under no law" (spec 00 R8, 43 R171). -/
opaque Config.drawByte : Nat → Byte

/-- The bit PERIPH supplies at its k-th draw, a free value "under no law" (spec 40 R121). -/
opaque Config.drawFlag : Nat → BitVec 1

/-- `CCR_FN(p, speed, duty)`: it reads `duty` only when `speed` is fast mode (spec 40 R113). -/
def Config.ccrFn (p : Nat) : Speed → Duty → Nat
  | .sm, _ => Config.ccrStandard p
  | .fm, duty => Config.ccrFast p duty

/-- `PCLK_MIN_SM` (spec 00 R6, 40 R112). -/
def Config.pclkMinSm : Nat := 2000000

/-- `PCLK_MIN_FM` (spec 00 R6, 40 R112). -/
def Config.pclkMinFm : Nat := 4000000

/-- The parameters a launch fixes (spec 00 R6): the bus clock the Clock Provider reports, the closed
address ranges `MEM_ADMIT` admits (20 R66), and the implemented priority bits. State holds them as plain
data, so that a statement about every state holds for every value of them. -/
structure Launch where
  pclkHz : Nat
  memAdmit : List (Nat × Nat)
  prioBits : Nat
  deriving DecidableEq, Repr

/-- The launch of spec 95 section 0, S_reset. DESIGN CHOICE (log 5): the parameters are OPEN. -/
def Config.launch : Launch where
  pclkHz := 16000000
  memAdmit := [(0x20000000, 0x200001FF), (0xFFFFFFFF, 0xFFFFFFFF), (0, 0)]
  prioBits := 4

/-- Reference instantiation of `FREQ_FN` (spec 93 I-GK4), for tests of spec 70 R262 only: no rule uses it. -/
def Config.freqReference (p : Nat) : Nat := min (p / 1000000) 50

/-- Reference instantiation of `CCR_FN` (spec 93 I-GK4), for tests of spec 70 R262 only: no rule uses it. -/
def Config.ccrReference (p : Nat) : Speed → Duty → Nat
  | .sm, _ => p / (2 * 100000)
  | .fm, .d2 => p / (3 * 400000)
  | .fm, .d16 => p / (25 * 400000)

/-- Reference instantiation of `TRISE_FN` (spec 93 I-GK4), for tests only: no rule uses it. -/
def Config.triseReference (p : Nat) : Speed → Nat
  | .sm => Config.freqReference p + 1
  | .fm => Config.freqReference p * 300 / 1000 + 1

end Sys2Proof
end

