-- ==== Sys2Proof/Machine/State.lean ====
section
/-! DEFINITION. The state of the block as plain data (spec 10), its environment's inputs (spec 60 R228,
42 R150, 60 R216), the outcomes' reasons, and the state at power-on (spec 10 R56, 70 R240). -/

namespace Sys2Proof.Machine

/-- The Transfer State (spec 10 R22): READY 0, BUSY_TX 1, BUSY_RX 2; the value 3 is never written. -/
inductive TransferState where
  | ready
  | busyTx
  | busyRx
  deriving DecidableEq, Repr

/-- The five agents (spec 00 R4): the mainline, the two interrupt contexts of the block, the application
callback, and the peripheral with its bus layer. -/
inductive Agent where
  | main
  | evh
  | erh
  | app
  | periph
  deriving DecidableEq, Repr

/-- The three contexts that run rules (spec 10 R50): APP runs inside one of them, and PERIPH in none (00 R4). -/
inductive Context where
  | main
  | evh
  | erh
  deriving DecidableEq, Repr

/-- The Application Events (spec 30 R89). -/
inductive AppEvent where
  | txCmplt
  | rxCmplt
  | stop
  | errBerr
  | errArlo
  | errAf
  | errOvr
  | errTimeout
  | dataReq
  | dataRcv
  | addrMatch
  deriving DecidableEq, Repr

/-- The status flags PERIPH owns (spec 10 R45). -/
inductive StatusFlag where
  | sb
  | addr
  | btf
  | stopf
  | rxne
  | txe
  | berr
  | arlo
  | af
  | ovr
  | timeout
  | msl
  | busy
  | tra
  deriving DecidableEq, Repr

/-- The model faults of the spec (spec 60 R201). -/
inductive FaultCode where
  | clockOff
  | initBusy
  | rxZeroLength
  | rxUnderflow
  | contextRace
  deriving DecidableEq, Repr

/-- The one refusal reason of the spec (spec 60 R202). -/
inductive RefusalReason where
  | illegalInput
  deriving DecidableEq, Repr

/-- What a `Ctl(field, v)` record names (spec 10 R30 to R42; 40 R110, R115, R119, R120). -/
inductive CtlField where
  | clken
  | pe
  | ack
  | engc
  | itevten
  | itbufen
  | iterren
  | oar
  | fs
  | duty
  | freq
  | ccr
  | trise
  | reset
  | nvicEn (line : Line)
  | nvicPrio (line : Line)
  deriving DecidableEq, Repr

/-- The commands that reply (spec 30 R90). -/
inductive ReplyOp where
  | init
  | mtx
  | mrx
  | srx
  | flag
  deriving DecidableEq, Repr

/-- What a history record says (spec 00 R10). -/
inductive Action where
  | ctl (field : CtlField) (v : Nat)
  | busStart
  | busStop
  | busDrw (v : Byte)
  | busDrr (v : Byte)
  | busClr (f : StatusFlag)
  | memR (a : Word) (v : Byte)
  | memW (a : Word) (v : Byte)
  | cb (ev : AppEvent)
  | reply (op : ReplyOp) (v : Nat)
  deriving DecidableEq, Repr

/-- One record of the history: an action tagged with the context that made it (spec 00 R10). -/
structure Record where
  agent : Context
  action : Action
  deriving DecidableEq, Repr

/-- The Transfer Context (spec 10 R22 to R26). -/
structure TransferContext where
  state : TransferState
  buf : Word
  rem : Word
  dev : BitVec 7
  sr : Bool
  deriving DecidableEq, Repr

/-- The configuration record (spec 10 R29). -/
structure ConfigRecord where
  speed : Speed
  duty : Duty
  ack : Bool
  own : BitVec 7
  deriving DecidableEq, Repr

/-- The control fields the block drives into the peripheral (spec 10 R30 to R41). The widths of the three
timing fields are part of the OPEN timing functions, so they are natural numbers (log 4). -/
structure CtlFields where
  pe : Bool
  ack : Bool
  engc : Bool
  itevten : Bool
  itbufen : Bool
  iterren : Bool
  oar : BitVec 7
  fs : Speed
  duty : Duty
  freq : Nat
  ccr : Nat
  trise : Nat
  deriving DecidableEq, Repr

/-- The interrupt-controller lines (spec 10 R43, R44). -/
structure Nvic where
  enEv : Bool
  enEr : Bool
  prioEv : Byte
  prioEr : Byte
  deriving DecidableEq, Repr

/-- What a context has begun and not finished (spec 10 R51): a rule with its next micro-step, or an open
callback of the rule below it, with the event it was given and the command words APP still issues. -/
inductive Frame where
  | rule (i : Instr) (next : Nat)
  | callback (ev : AppEvent) (cmds : List Word)
  deriving DecidableEq, Repr

/-- `mid[C]` for each context (spec 10 R51), the innermost entry first. -/
structure Mid where
  main : List Frame
  evh : List Frame
  erh : List Frame
  deriving DecidableEq, Repr

/-- A word PERIPH will present once `after` more moments have passed (spec 42 R150, 60 R210; log 1, 19). -/
structure Presented where
  after : Nat
  word : Word
  deriving DecidableEq, Repr

/-- The buffer memory (spec 20 R60): the bytes that are not 0, by rising address (log 6). -/
abbrev Memory := List Host.Cell

/-- The whole state. `ctx` to `mem` are the spec's (10 R22 to R53, 20 R60); `launch` holds the launch
parameters (00 R6); the last four fields are the environment's inputs and the draw counter, which the
spec leaves to MAIN, PERIPH and APP (log 2, 3). The head of `stack` is its top (10 R50). -/
@[ext]
structure State where
  ctx : TransferContext
  cfg : ConfigRecord
  ctl : CtlFields
  clken : Bool
  nvic : Nvic
  stack : List Context
  mid : Mid
  fault : Option FaultCode
  refused : Option RefusalReason
  hist : List Record
  mem : Memory
  launch : Launch
  draws : Nat
  mainIn : List Word
  pres : List Presented
  app : List (List Word)
  deriving DecidableEq, Repr

/-- Why the machine stops. -/
inductive Fault where
  /-- Raised by `step` in a state that carries a fault mark: the faulted state is quiescent, no agent takes
  a further step (spec 60 R201). Safe. -/
  | marked (c : FaultCode)
  /-- Raised by TXE and RXNE, and by `step` resuming one of them: `ctx.buf` is not in MEM_ADMIT, so the
  context has no step (spec 20 R66, 60 R203), and no word is still to be presented. Safe. -/
  | stuck (a : Word)
  deriving DecidableEq, Repr

/-- Why an input has no meaning. -/
inductive Refusal where
  /-- An instruction whose meaning is not written yet, raised by `exec` alone. Safe. -/
  | notModelled (mnemonic : String)
  /-- Raised by `step`: a class-00 word presented by PERIPH, or an event or error word issued by MAIN or
  APP, "has no move, because the ports are separate" (spec 60 R221; for an illegal class-00 word the choice
  of log 11). Safe. -/
  | wrongPort
  deriving DecidableEq, Repr

/-- The Transfer Context at power-on (spec 10 R56). -/
def TransferContext.reset : TransferContext where
  state := .ready
  buf := 0
  rem := 0
  dev := 0
  sr := false

/-- The configuration record at power-on (spec 10 R56). -/
def ConfigRecord.reset : ConfigRecord where
  speed := .sm
  duty := .d2
  ack := false
  own := 0

/-- The control fields at power-on (spec 10 R56): all 0 but TRISE, which is 2. -/
def CtlFields.reset : CtlFields where
  pe := false
  ack := false
  engc := false
  itevten := false
  itbufen := false
  iterren := false
  oar := 0
  fs := .sm
  duty := .d2
  freq := 0
  ccr := 0
  trise := 2

/-- The interrupt-controller lines at power-on (spec 10 R56). -/
def Nvic.reset : Nvic where
  enEv := false
  enEr := false
  prioEv := 0
  prioEr := 0

/-- No rule begun in any context (spec 10 R51). -/
def Mid.reset : Mid where
  main := []
  evh := []
  erh := []

/-- The state at power-on (spec 10 R56, 70 R240). `launch` is the launch of spec 95 (log 5); nothing has
been drawn and no agent has an input yet (log 2, 3). -/
def State.reset : State where
  ctx := TransferContext.reset
  cfg := ConfigRecord.reset
  ctl := CtlFields.reset
  clken := false
  nvic := Nvic.reset
  stack := [.main]
  mid := Mid.reset
  fault := none
  refused := none
  hist := []
  mem := []
  launch := Config.launch
  draws := 0
  mainIn := []
  pres := []
  app := []

end Sys2Proof.Machine
end

