-- ==== Sys2Proof/Machine/Ops.lean ====
section
/-! DEFINITION. The named operations over the state: the buffer memory, the history, the control fields,
the draws, the contexts (interrupt entry and exit, preemption), the marks, and the Close steps. -/

namespace Sys2Proof.Machine

/-! ## Buffer memory (spec 20) -/

/-- What an unlisted byte reads as (spec 95 section 0; log 6). -/
def Memory.unlisted : Byte := 0

/-- The byte at an address. -/
def Memory.read : Memory → Nat → Byte
  | [], _ => Memory.unlisted
  | (b, v) :: m, a => if b = a then v else Memory.read m a

/-- Stores a byte, keeping the list by rising address with no entry equal to the unlisted byte. -/
def Memory.write : Memory → Nat → Byte → Memory
  | [], a, v => if v = Memory.unlisted then [] else [(a, v)]
  | (b, u) :: m, a, v =>
    if a < b then (if v = Memory.unlisted then (b, u) :: m else (a, v) :: (b, u) :: m)
    else if a = b then (if v = Memory.unlisted then m else (a, v) :: m)
    else (b, u) :: Memory.write m a v

/-- Whether every entry lies at or above `lo` and below 2^32, by rising address, and none is the unlisted
byte. -/
def Memory.wfFrom : Nat → Memory → Bool
  | _, [] => true
  | lo, (a, v) :: m => decide (lo ≤ a) && decide (a < 2 ^ 32) && (v != Memory.unlisted) && Memory.wfFrom (a + 1) m

/-- The canonical form of the buffer memory. -/
def Memory.wf (m : Memory) : Bool := Memory.wfFrom 0 m

/-- Whether the launch memory admits an address (spec 20 R66). -/
def State.admits (s : State) (a : Word) : Bool :=
  s.launch.memAdmit.any fun r => decide (r.1 ≤ a.toNat) && decide (a.toNat ≤ r.2)

/-! ## History and control fields (spec 00 R8, R10) -/

/-- The context now executing: the top of the stack (spec 10 R50). -/
def State.top (s : State) : Context := s.stack.headD .main

/-- Appends one record, tagged with the context that makes it (spec 00 R10). -/
def State.record (s : State) (a : Action) : State := { s with hist := s.hist ++ [⟨s.top, a⟩] }

/-- `Ctl(field) <- v`: the control fields become `c`, and `Ctl(field, v)` is recorded (spec 00 R8). -/
def State.ctlWrite (s : State) (c : CtlFields) (f : CtlField) (v : Nat) : State :=
  { s with ctl := c, hist := s.hist ++ [⟨s.top, .ctl f v⟩] }

/-- Writes the Transfer Context, which makes no record (spec 45 R185). -/
def State.setCtx (s : State) (c : TransferContext) : State := { s with ctx := c }

/-- Writes the configuration record, which makes no record (spec 40 R111). -/
def State.setCfg (s : State) (c : ConfigRecord) : State := { s with cfg := c }

/-- `CLKEN <- en`, recorded (spec 40 R110). -/
def State.setClken (s : State) (en : Bool) (v : Nat) : State :=
  { s with clken := en, hist := s.hist ++ [⟨s.top, .ctl .clken v⟩] }

/-- Writes the interrupt-controller lines, recorded under the field written (spec 40 R119, R120). -/
def State.nvicWrite (s : State) (n : Nvic) (f : CtlField) (v : Nat) : State :=
  { s with nvic := n, hist := s.hist ++ [⟨s.top, .ctl f v⟩] }

/-! ## Accesses with an outside effect (spec 00 R8, 20 R65) -/

/-- `MemRead(a, 1)`: the byte read and the state with the read recorded. -/
def State.memRead (s : State) (a : Word) : Byte × State :=
  (Memory.read s.mem a.toNat, s.record (.memR a (Memory.read s.mem a.toNat)))

/-- `MemWrite(a, 1, v)`, recorded. -/
def State.memWrite (s : State) (a : Word) (v : Byte) : State :=
  { s with mem := Memory.write s.mem a.toNat v, hist := s.hist ++ [⟨s.top, .memW a v⟩] }

/-- One draw is used up: the next one is a fresh free value (spec 20 R65; log 3). -/
def State.drawn (s : State) : State := { s with draws := s.draws + 1 }

/-- `v <- Bus(DRR)`: PERIPH supplies the byte, and the read is recorded (spec 20 R61). -/
def State.busDrr (s : State) : Byte × State :=
  (Config.drawByte s.draws, s.drawn.record (.busDrr (Config.drawByte s.draws)))

/-- The bit PERIPH supplies for a flag query; no record of its own (spec 40 R121). -/
def State.flagDraw (s : State) : BitVec 1 × State := (Config.drawFlag s.draws, s.drawn)

/-! ## Marks (spec 10 R52) -/

/-- `raise Fault(code)` (spec 60 R201): sets the fault mark and nothing else. -/
def State.raise (s : State) (c : FaultCode) : State := { s with fault := some c }

/-- `refuse(ILLEGAL_INPUT)` (spec 60 R202): sets the refusal mark and nothing else. -/
def State.refuse (s : State) : State := { s with refused := some .illegalInput }

/-! ## Lines and contexts (spec 60 R207 to R215) -/

/-- The handler of a line (spec 60 R207). -/
def handlerOf : Line → Context
  | .ev => .evh
  | .er => .erh

/-- The agent that runs the rules of a context (spec 00 R4). -/
def Context.agent : Context → Agent
  | .main => .main
  | .evh => .evh
  | .erh => .erh

/-- `nvic.en[line]` (spec 10 R43). -/
def Nvic.en (n : Nvic) : Line → Bool
  | .ev => n.enEv
  | .er => n.enEr

/-- `nvic.prio[line]` (spec 10 R44). -/
def Nvic.prio (n : Nvic) : Line → Byte
  | .ev => n.prioEv
  | .er => n.prioEr

/-- The lines with `en[line]` written. -/
def Nvic.setEn (n : Nvic) (en : Bool) : Line → Nvic
  | .ev => { n with enEv := en }
  | .er => { n with enEr := en }

/-- The lines with `prio[line]` written. -/
def Nvic.setPrio (n : Nvic) (p : Byte) : Line → Nvic
  | .ev => { n with prioEv := p }
  | .er => { n with prioEr := p }

/-- `mid[C]` (spec 10 R51). -/
def Mid.get (m : Mid) : Context → List Frame
  | .main => m.main
  | .evh => m.evh
  | .erh => m.erh

/-- `mid[C] <- fs`. -/
def Mid.set (m : Mid) (fs : List Frame) : Context → Mid
  | .main => { m with main := fs }
  | .evh => { m with evh := fs }
  | .erh => { m with erh := fs }

/-- What the running context has begun and not finished, the innermost first. -/
def State.frames (s : State) : List Frame := s.mid.get s.top

/-- Replaces what the running context has begun and not finished. -/
def State.setFrames (s : State) (fs : List Frame) : State := { s with mid := s.mid.set fs s.top }

/-- The running context leaves a rule unfinished at micro-step `k` (spec 10 R51). -/
def State.suspend (s : State) (i : Instr) (k : Nat) : State := s.setFrames (.rule i k :: s.frames)

/-- INTERRUPT ENTRY (spec 60 R214): the handler's context is pushed and begins with nothing of its own
unfinished; the preempted context keeps its entries, and nothing else is saved or written. The rule the
word selects is run by the step that enters; it is put into `mid[H]` where that step leaves it unfinished
(log 12). -/
def State.enter (s : State) (h : Context) : State :=
  { s with stack := h :: s.stack, mid := s.mid.set [] h }

/-- INTERRUPT EXIT (spec 60 R215): the running context is popped and its entries are emptied; there is
nothing to restore. -/
def State.leave (s : State) : State := { s with stack := s.stack.tail, mid := s.mid.set [] s.top }

/-- Whether the handler of a line may start above the running context (spec 60 R210, conditions 2 and 4):
it is not on the stack already, and the running context is MAIN or the other handler with a priority number
strictly greater. -/
def State.mayPreempt (s : State) (l : Line) : Bool :=
  !s.stack.contains (handlerOf l) &&
    match s.top with
    | .main => true
    | .evh => decide ((s.nvic.prio l).toNat < (s.nvic.prio .ev).toNat)
    | .erh => decide ((s.nvic.prio l).toNat < (s.nvic.prio .er).toNat)

/-- The gate of the event line (spec 42 R140, 60 R208); `buffered` for TXE and RXNE. -/
def State.eventGate (s : State) (buffered : Bool) : Bool :=
  s.clken && s.nvic.en .ev && s.ctl.itevten && (!buffered || s.ctl.itbufen)

/-- The gate of the error line (spec 44 R175, 60 R208). -/
def State.errorGate (s : State) : Bool := s.clken && s.nvic.en .er && s.ctl.iterren

/-- The gate of a line for a word with a reserved code (spec 60 R207, R208; 42 R149: gated like SB; 44 R175). -/
def State.lineGate (s : State) : Line → Bool
  | .ev => s.eventGate false
  | .er => s.errorGate

/-! ## Presented words and callbacks (spec 60 R210, R216; log 1, 2) -/

/-- The words still to be presented once `k` moments have passed (a moment is a micro-step, a handler's
exit or a refused input, log 9, 19): the first one comes `k` nearer. -/
def afterSteps (k : Nat) : List Presented → List Presented
  | [] => []
  | p :: ps => { p with after := p.after - k } :: ps

/-- Whether the first word is due at once. -/
def dueNow : List Presented → Bool
  | [] => false
  | p :: _ => p.after == 0

/-- Whether no word falls due up to the `k`-th moment from now. -/
def quietFor (k : Nat) : List Presented → Bool
  | [] => true
  | p :: _ => decide (k < p.after)

/-- Whether PERIPH presents its next word now. -/
def State.due (s : State) : Bool := dueNow s.pres

/-- Whether PERIPH presents no word up to the `k`-th moment from now. -/
def State.quiet (s : State) (k : Nat) : Bool := quietFor k s.pres

/-- `k` moments have passed. -/
def State.elapsed (s : State) (k : Nat) : State := { s with pres := afterSteps k s.pres }

/-- One moment has passed. -/
def State.elapse (s : State) : State := s.elapsed 1

/-- The command words APP issues in the callback that opens now: one list for each callback, and none once
the lists are used up. -/
def State.appCommands (s : State) : List Word := s.app.headD []

/-- The callback that opens now takes its command words. -/
def State.appTaken (s : State) : State := { s with app := s.app.tail }

/-! ## Close steps (spec 45 R185) -/

/-- Micro-step `n` of the Close steps, 1 to 4. -/
def State.closeStep (s : State) : Nat → State
  | 1 =>
    let s1 := s.ctlWrite { s.ctl with itevten := false } .itevten 0
    s1.ctlWrite { s1.ctl with itbufen := false } .itbufen 0
  | 2 => s.setCtx { s.ctx with rem := 0 }
  | 3 => s.ctlWrite { s.ctl with ack := s.cfg.ack } .ack (bit s.cfg.ack)
  | 4 => s.setCtx { s.ctx with state := .ready }
  | _ => s

end Sys2Proof.Machine
end

