-- ==== Sys2Proof/Machine/Operands.lean ====
section
/-! DEFINITION. Operand values and output codes: the address byte, the priority mask, the numeric codes of
states, events, replies and faults (spec 30 R87 to R90, 40 R120, 60 R201), and the rules by kind (60 R212). -/

namespace Sys2Proof.Machine

/-- The address byte `{dev, rw}`, `rw` 1 for a receive (spec 30 R87). -/
def addressByte (dev : BitVec 7) (read : Bool) : Byte := BitVec.ofNat 8 (dev.toNat * 2 + bit read)

/-- The mask of the implemented priority bits, `(0xFF << (8 - PRIO_BITS)) & 0xFF` (spec 40 R120). -/
def prioMask (prioBits : Nat) : Byte := BitVec.ofNat 8 (0xFF <<< (8 - prioBits))

/-- A written priority, with only its top `PRIO_BITS` bits kept (spec 40 R120). -/
def keptPrio (prioBits : Nat) (prio : Byte) : Byte := prio &&& prioMask prioBits

/-- Whether INIT finds the bus clock too slow for the speed (spec 40 R112). -/
def clockTooSlow (p : Nat) : Speed → Bool
  | .sm => decide (p = 0) || decide (p < Config.pclkMinSm)
  | .fm => decide (p = 0) || decide (p < Config.pclkMinFm)

/-- The numeric code of the Transfer State (spec 10 R22, 30 R90). -/
def TransferState.code : TransferState → Nat
  | .ready => 0
  | .busyTx => 1
  | .busyRx => 2

/-- The numeric code of an Application Event (spec 30 R89). -/
def AppEvent.code : AppEvent → Nat
  | .txCmplt => 0
  | .rxCmplt => 1
  | .stop => 2
  | .errBerr => 3
  | .errArlo => 4
  | .errAf => 5
  | .errOvr => 6
  | .errTimeout => 7
  | .dataReq => 8
  | .dataRcv => 9
  | .addrMatch => 10

/-- The numeric code of a model fault (spec 60 R201). -/
def FaultCode.code : FaultCode → Nat
  | .clockOff => 1
  | .initBusy => 2
  | .rxZeroLength => 3
  | .rxUnderflow => 4
  | .contextRace => 5

/-- Whether an input belongs to the command port (spec 30 R82); the others come from PERIPH. -/
def isCommand : Instr → Bool
  | .clk _ | .init _ _ _ _ | .deinit | .pe _ | .gc _ | .cben _ | .irqen _ _ | .irqpri _ _ => true
  | .mtx _ _ _ _ | .mrx _ _ _ _ | .closetx | .closerx | .stx _ | .srx | .flag _ => true
  | .evSb _ _ | .evAddr _ _ | .evBtf _ _ | .evStopf _ _ | .evRxne _ _ | .evTxe _ _ | .err _ => false

/-- Whether a word of a class that an agent puts out has a port to go to (spec 30 R80, 60 R221): MAIN and APP issue
commands, PERIPH presents event and error words, and the two handlers put out no words. A word of class 11 is no
port's, and is refused whoever puts it out (30 R86). -/
def Agent.issues : Agent → PortClass → Bool
  | .main, .command | .app, .command => true
  | .periph, .event | .periph, .error => true
  | .main, .reserved | .app, .reserved | .periph, .reserved => true
  | _, _ => false

/-- The line a presented word comes on, by its class (spec 60 R207); only event and error words come on one. -/
def lineOfClass : PortClass → Line
  | .error => .er
  | .event | .command | .reserved => .ev

/-- Whether a rule reads or writes `ctx` (spec 60 R212, the ctx-sensitive rules). -/
def ctxSensitive : Instr → Bool
  | .mtx _ _ _ _ | .mrx _ _ _ _ | .init _ _ _ _ | .deinit | .closetx | .closerx => true
  | .evSb _ _ | .evAddr _ _ | .evBtf _ _ | .evRxne _ _ | .evTxe _ _ => true
  | .clk _ | .pe _ | .gc _ | .cben _ | .irqen _ _ | .irqpri _ _ | .stx _ | .srx | .flag _ => false
  | .evStopf _ _ | .err _ => false

/-- The number of the last micro-step of a rule (spec 40 to 45, the pseudocode's numbers). -/
def lastStep : Instr → Nat
  | .mtx _ _ _ _ | .mrx _ _ _ _ => 5
  | .closetx | .closerx => 4
  | .evAddr _ _ | .evStopf _ _ => 2
  | .evBtf _ _ => 6
  | .evRxne msl _ => if msl then 7 else 1
  | .err _ => 5
  | .clk _ | .init _ _ _ _ | .deinit | .pe _ | .gc _ | .cben _ | .irqen _ _ | .irqpri _ _ => 1
  | .stx _ | .srx | .flag _ | .evSb _ _ | .evTxe _ _ => 1

/-- Whether an entry of `mid[C]` has a micro-step of a ctx-sensitive rule still to begin (spec 60 R212). -/
def Frame.midRule : Frame → Bool
  | .rule i next => ctxSensitive i && decide (next ≤ lastStep i)
  | .callback _ _ => false

/-- Whether a context is mid-rule (spec 60 R212). -/
def State.midRule (s : State) (c : Context) : Bool := (s.mid.get c).any Frame.midRule

/-- Guard R122: CLOCK_OFF while the peripheral clock is off (spec 40 R122). -/
def State.clockGuard (s : State) : Option FaultCode := if s.clken then none else some .clockOff

/-- Guards R122 and R212 of a context-writing command: CLOCK_OFF, then CONTEXT_RACE when a context below
the running one is mid-rule (spec 60 R212). -/
def State.contextGuard (s : State) : Option FaultCode :=
  if s.clken then (if s.stack.tail.any s.midRule then some .contextRace else none) else some .clockOff

end Sys2Proof.Machine
end

