-- ==== Sys2Proof/Machine/Flags.lean ====
section
/-! DEFINITION. The status flags PERIPH owns (spec 10 R45): their indices, and how the five error flags of an
error word map to flags to clear and events to emit (spec 30 R85, 44 R176). The block keeps no copy of any
flag (spec 10 R46). -/

namespace Sys2Proof.Machine

/-- The index FLAG takes for a status flag (spec 10 R45). -/
def StatusFlag.index : StatusFlag → BitVec 5
  | .sb => 0
  | .addr => 1
  | .btf => 2
  | .stopf => 4
  | .rxne => 6
  | .txe => 7
  | .berr => 8
  | .arlo => 9
  | .af => 10
  | .ovr => 11
  | .timeout => 14
  | .msl => 16
  | .busy => 17
  | .tra => 18

/-- The flag and the event of bit `n` of an error word, in flag-bit order (spec 30 R85, 44 R176). -/
def errorOfBit : Nat → Option (StatusFlag × AppEvent)
  | 0 => some (.berr, .errBerr)
  | 1 => some (.arlo, .errArlo)
  | 2 => some (.af, .errAf)
  | 3 => some (.ovr, .errOvr)
  | 4 => some (.timeout, .errTimeout)
  | _ => none

end Sys2Proof.Machine
end

