-- ==== Sys2Proof/Machine/Run.lean ====
section
/-! DEFINITION. How a rule runs: micro-step by micro-step (spec 00 R9) until it ends, until a presented word
falls due between two of its micro-steps (60 R210), or until a callback has commands to issue (60 R216). -/

namespace Sys2Proof.Machine

/-- What one micro-step of a rule does. -/
inductive Micro where
  /-- The rule goes on at micro-step `k`; past its last micro-step it has ended. -/
  | go (k : Nat) (s : State)
  /-- An `end`: the rule is finished. -/
  | done (s : State)
  /-- The micro-step's last action is `Emit(ev)`; the rule then goes on at micro-step `k`. -/
  | emit (ev : AppEvent) (k : Nat) (s : State)
  /-- `raise Fault(c)`: the micro-step has no effect but the mark. -/
  | raise (c : FaultCode)
  /-- A memory access MEM_ADMIT does not admit: the micro-step has no step (spec 20 R66). -/
  | stuck (a : Word)

/-- The answer of a meaning and of a step. -/
abbrev Answer := Host.Outcome State Fault Refusal

/-- Enough rounds for every rule: an event rule has at most seven micro-steps, ERR five (spec 70 R263). -/
def maxMicro : Nat := 8

/-- A rule has ended. A command returns to its issuer. A handler exits (spec 60 R215), and the exit takes a
moment; a word that falls due before it is presented before it (log 19). -/
def ruleEnded (i : Instr) (s : State) : Answer :=
  if isCommand i || s.due then .next s else .next s.leave.elapse

/-- A micro-step has ended and the rule stands at micro-step `k`: the rule has ended, or a presented word is
due and the rule waits in `mid`, or the rule goes on by `rest`. -/
def proceed (i : Instr) (rest : Nat → State → Answer) (k : Nat) (s : State) : Answer :=
  if lastStep i < k then ruleEnded i s.elapse
  else if s.elapse.due then .next (s.elapse.suspend i k)
  else rest k s.elapse

/-- `Emit(ev)` (spec 60 R216): records `Cb(ev)` and runs APP, which returns at once when it issues nothing;
otherwise the callback stays open in `mid` and the steps that follow run its commands. -/
def emitted (i : Instr) (rest : Nat → State → Answer) (ev : AppEvent) (k : Nat) (s : State) : Answer :=
  let s1 := (s.record (.cb ev)).appTaken
  match s.appCommands with
  | [] => proceed i rest k s1
  | w :: ws =>
    let s2 := s1.suspend i k
    .next (s2.setFrames (.callback ev (w :: ws) :: s2.frames))

/-- A micro-step that has no step (spec 60 R203): the rule stays at it in `mid`. While PERIPH still has
words to present, a handler of higher priority may yet start, so time passes; otherwise nothing can move. -/
def stuckAt (i : Instr) (k : Nat) (a : Word) (s : State) : Answer :=
  match s.pres with
  | [] => .fault (.stuck a)
  | _ :: _ => .next (s.suspend i k).elapse

/-- Runs rule `i`, whose micro-steps are `micro`, from micro-step `k`. The first argument bounds the rounds. -/
def runRule (i : Instr) (micro : Nat → State → Micro) : Nat → Nat → State → Answer
  | 0, k, s => .next (s.suspend i k)
  | n + 1, k, s =>
    match micro k s with
    | .go k1 s1 => proceed i (runRule i micro n) k1 s1
    | .done s1 => ruleEnded i s1.elapse
    | .emit ev k1 s1 => emitted i (runRule i micro n) ev k1 s1
    | .raise c => .next ((s.suspend i k).raise c)
    | .stuck a => stuckAt i k a s

/-- Issues a command in the running context: the guard of its line `0:` comes before any effect. -/
def runCommand (i : Instr) (guard : Option FaultCode) (micro : Nat → State → Micro) (s : State) : Answer :=
  match guard with
  | some c => .next (s.raise c)
  | none => runRule i micro maxMicro 1 s

/-- PERIPH presents the word of a handler rule on a line (spec 42 R140, 44 R175, 60 R210): with its gate
true the handler starts (60 R214) and runs the rule, which waits at its first micro-step where another word is
presented at once; otherwise the word is discarded without record or effect. -/
def runHandler (i : Instr) (l : Line) (gate : Bool) (micro : Nat → State → Micro) (s : State) : Answer :=
  if gate && s.mayPreempt l then
    (if s.due then .next ((s.enter (handlerOf l)).suspend i 1)
     else runRule i micro maxMicro 1 (s.enter (handlerOf l)))
  else .next s

/-- PERIPH presents a word with a reserved code on a line (spec 42 R149, 44 R175 line 0, 60 R207): with the line's
gate true the handler starts, has nothing to run, and exits. A word presented at once with it finds the handler on
the stack (60 R213; log 18, 19). -/
def runReserved (l : Line) (s : State) : Answer :=
  if s.lineGate l && s.mayPreempt l then
    (if s.due then .next (s.enter (handlerOf l)) else .next (s.enter (handlerOf l)).leave.elapse)
  else .next s

end Sys2Proof.Machine
end

