-- ==== Sys2Proof/Machine/Close.lean ====
section
/-! DEFINITION. The close commands (spec 45): CLOSETX and CLOSERX run the same four Close steps. -/

namespace Sys2Proof.Machine

/-- A Close command, micro-steps 1 to 4 (spec 45 R185). -/
def microClose (k : Nat) (s : State) : Micro := .go (k + 1) (s.closeStep k)

/-- CLOSETX: close-send, in every state (spec 45 R186, R188). -/
def execClosetx (s : State) : Answer := runCommand .closetx s.contextGuard microClose s

/-- CLOSERX: close-receive, in every state (spec 45 R187, R188). -/
def execCloserx (s : State) : Answer := runCommand .closerx s.contextGuard microClose s

end Sys2Proof.Machine
end

