-- ==== Sys2Proof/Machine/Errors.lean ====
section
/-! DEFINITION. The error classifier ERH runs (spec 44): one micro-step for each flag, in flag-bit order. -/

namespace Sys2Proof.Machine

/-- ERR, micro-step `k` (spec 44 R175, R176): for flag bit `k - 1`, if set, clear it and emit its event. -/
def microErr (flags : BitVec 5) (k : Nat) (s : State) : Micro :=
  match errorOfBit (k - 1) with
  | some (flag, ev) =>
    if flags.getLsbD (k - 1) then .emit ev (k + 1) (s.record (.busClr flag)) else .go (k + 1) s
  | none => .done s

/-- ERR: classify and report the error flags of one error-interrupt entry (spec 44 R175 to R178). -/
def execErr (flags : BitVec 5) (s : State) : Answer :=
  runHandler (.err flags) .er s.errorGate (microErr flags) s

end Sys2Proof.Machine
end

