-- ==== Sys2Proof/Machine/Events.lean ====
section
/-! DEFINITION. The event rules EVH runs (spec 42): SB, ADDR, BTF, STOPF, RXNE, TXE. A word whose gate is
false is discarded (R140); an event that matches no transition does nothing (R148). -/

namespace Sys2Proof.Machine

/-- SB, micro-step 1 (spec 42 R141): the address byte, by the direction of the transfer. -/
def microSb (_ : Nat) (s : State) : Micro :=
  match s.ctx.state with
  | .busyTx => .go 2 (s.record (.busDrw (addressByte s.ctx.dev false)))
  | .busyRx => .go 2 (s.record (.busDrw (addressByte s.ctx.dev true)))
  | .ready => .done s

/-- EV_SB: start sent; it reads neither role bit (spec 42 R141). -/
def execEvSb (msl tra : Bool) (s : State) : Answer :=
  runHandler (.evSb msl tra) .ev (s.eventGate false) microSb s

/-- ADDR (spec 42 R142): in master role ACK off for a one-byte receive, then the flag cleared, in that order;
in slave role the flag cleared, then ADDR_MATCH. -/
def microAddr (msl : Bool) (k : Nat) (s : State) : Micro :=
  if msl then
    (if k = 1 then
      (if s.ctx.state = .busyRx ∧ s.ctx.rem = 1 then .go 2 (s.ctlWrite { s.ctl with ack := false } .ack 0)
       else .go 2 s)
     else .go 3 (s.record (.busClr .addr)))
  else
    (if k = 1 then .go 2 (s.record (.busClr .addr)) else .emit .addrMatch 3 s)

/-- EV_ADDR: address acknowledged (master) or matched (slave) (spec 42 R142). -/
def execEvAddr (msl tra : Bool) (s : State) : Answer :=
  runHandler (.evAddr msl tra) .ev (s.eventGate false) (microAddr msl) s

/-- BTF (spec 42 R143, R147): a completed master send stops unless a repeated start was requested, closes, and
emits TX_CMPLT; anything else is a defensive no-op. -/
def microBtf (msl : Bool) (k : Nat) (s : State) : Micro :=
  if msl then
    (if k = 1 then
      (if s.ctx.state = .busyTx ∧ s.ctx.rem = 0 then .go 2 (if s.ctx.sr then s else s.record .busStop)
       else .done s)
     else if k = 6 then .emit .txCmplt 7 s
     else .go (k + 1) (s.closeStep (k - 1)))
  else .done s

/-- EV_BTF: byte transfer finished (spec 42 R143). -/
def execEvBtf (msl tra : Bool) (s : State) : Answer :=
  runHandler (.evBtf msl tra) .ev (s.eventGate false) (microBtf msl) s

/-- STOPF (spec 42 R144): the flag cleared in both roles; the event in slave role only. -/
def microStopf (msl : Bool) (k : Nat) (s : State) : Micro :=
  if k = 1 then .go 2 (s.record (.busClr .stopf))
  else if msl then .go 3 s
  else .emit .stop 3 s

/-- EV_STOPF: stop detected (spec 42 R144). -/
def execEvStopf (msl tra : Bool) (s : State) : Answer :=
  runHandler (.evStopf msl tra) .ev (s.eventGate false) (microStopf msl) s

/-- RXNE's data step in master role (spec 42 R145, micro-step 1): ACK off when two bytes remain, before the
read; the byte read and stored; the buffer address and the count moved on. -/
def State.receiveByte (s : State) : State :=
  let s1 := if s.ctx.rem = 2 then s.ctlWrite { s.ctl with ack := false } .ack 0 else s
  let s2 := s1.busDrr.2.memWrite s1.ctx.buf s1.busDrr.1
  s2.setCtx { s2.ctx with buf := s2.ctx.buf + 1, rem := s2.ctx.rem - 1 }

/-- RXNE (spec 42 R145, R147): every byte is stored; the last one stops, closes and emits RX_CMPLT. In slave
role as receiver the event goes to APP. -/
def microRxne (msl tra : Bool) (k : Nat) (s : State) : Micro :=
  if msl then
    (if k = 1 then
      (if s.ctx.state ≠ .busyRx then .done s
       else if s.ctx.rem = 0 then .raise .rxUnderflow
       else if s.admits s.ctx.buf then .go 2 s.receiveByte
       else .stuck s.ctx.buf)
     else if k = 2 then
      (if s.ctx.rem ≠ 0 then .done s else .go 3 (if s.ctx.sr then s else s.record .busStop))
     else if k = 7 then .emit .rxCmplt 8 s
     else .go (k + 1) (s.closeStep (k - 2)))
  else (if tra then .done s else .emit .dataRcv 2 s)

/-- EV_RXNE: byte received (spec 42 R145). -/
def execEvRxne (msl tra : Bool) (s : State) : Answer :=
  runHandler (.evRxne msl tra) .ev (s.eventGate true) (microRxne msl tra) s

/-- TXE's data step in master role (spec 42 R146): the next byte read and written to the data register; the
buffer address and the count moved on. -/
def State.sendByte (s : State) : State :=
  let s1 := (s.memRead s.ctx.buf).2.record (.busDrw (s.memRead s.ctx.buf).1)
  s1.setCtx { s1.ctx with buf := s1.ctx.buf + 1, rem := s1.ctx.rem - 1 }

/-- TXE (spec 42 R146): a byte sent while some remain; with none it waits for BTF. In slave role as transmitter
the request goes to APP. -/
def microTxe (msl tra : Bool) (_ : Nat) (s : State) : Micro :=
  if msl then
    (if s.ctx.state = .busyTx ∧ s.ctx.rem ≠ 0 then
      (if s.admits s.ctx.buf then .go 2 s.sendByte else .stuck s.ctx.buf)
     else .done s)
  else (if tra then .emit .dataReq 2 s else .done s)

/-- EV_TXE: byte register empty (spec 42 R146). -/
def execEvTxe (msl tra : Bool) (s : State) : Answer :=
  runHandler (.evTxe msl tra) .ev (s.eventGate true) (microTxe msl tra) s

end Sys2Proof.Machine
end

