-- ==== Sys2Proof/Machine/Lifecycle.lean ====
section
/-! DEFINITION. Configuration, lifecycle and plumbing commands (spec 40): CLK, INIT, DEINIT, PE, GC, CBEN,
IRQEN, IRQPRI, FLAG. Each rule is one micro-step. -/

namespace Sys2Proof.Machine

/-- CLK, micro-step 1 (spec 40 R110). -/
def microClk (en : Bool) (_ : Nat) (s : State) : Micro := .go 2 (s.setClken en (bit en))

/-- CLK: enable or disable the peripheral clock, whatever CLKEN holds (spec 40 R110, R122). -/
def execClk (en : Bool) (s : State) : Answer := runCommand (.clk en) none (microClk en) s

/-- INIT programs the peripheral: the writes of an accepted configuration, in the order of spec 40 R111. -/
def State.program (s : State) (own : BitVec 7) (speed : Speed) (duty : Duty) (ack : Bool) : State :=
  let p := s.launch.pclkHz
  let s0 := s.setCfg ⟨speed, duty, ack, own⟩
  let s1 := s0.ctlWrite { s0.ctl with freq := Config.freqFn p } .freq (Config.freqFn p)
  let s2 := s1.ctlWrite { s1.ctl with ccr := Config.ccrFn p speed duty } .ccr (Config.ccrFn p speed duty)
  let s3 := s2.ctlWrite { s2.ctl with fs := speed } .fs speed.value
  let s4 := s3.ctlWrite { s3.ctl with duty := duty } .duty duty.value
  let s5 := s4.ctlWrite { s4.ctl with trise := Config.triseFn p speed } .trise (Config.triseFn p speed)
  let s6 := s5.ctlWrite { s5.ctl with oar := own } .oar own.toNat
  s6.ctlWrite { s6.ctl with ack := ack } .ack (bit ack)

/-- INIT, micro-step 1 (spec 40 R111, R112): INIT_BUSY, or reply 1 and nothing else on a clock too slow, or the
configuration and reply 0. -/
def microInit (own : BitVec 7) (speed : Speed) (duty : Duty) (ack : Bool) (_ : Nat) (s : State) : Micro :=
  if s.ctx.state ≠ .ready then .raise .initBusy
  else if clockTooSlow s.launch.pclkHz speed then .done (s.record (.reply .init 1))
  else .go 2 ((s.program own speed duty ack).record (.reply .init 0))

/-- INIT: validate a configuration and program the peripheral from it (spec 40 R111 to R114). -/
def execInit (own : BitVec 7) (speed : Speed) (duty : Duty) (ack : Bool) (s : State) : Answer :=
  runCommand (.init own speed duty ack) s.contextGuard (microInit own speed duty ack) s

/-- DEINIT, micro-step 1 (spec 40 R115): every `Ctl`, `cfg` and `ctx` field to its reset value, with one record
for the whole reset. -/
def microDeinit (_ : Nat) (s : State) : Micro :=
  .go 2 (((s.ctlWrite CtlFields.reset .reset 0).setCfg ConfigRecord.reset).setCtx TransferContext.reset)

/-- DEINIT: the software reset (spec 40 R115, 70 R242, R243). -/
def execDeinit (s : State) : Answer := runCommand .deinit s.contextGuard microDeinit s

/-- PE, micro-step 1 (spec 40 R116). -/
def microPe (en : Bool) (_ : Nat) (s : State) : Micro :=
  .go 2 (s.ctlWrite { s.ctl with pe := en } .pe (bit en))

/-- PE: peripheral enable or disable (spec 40 R116). -/
def execPe (en : Bool) (s : State) : Answer := runCommand (.pe en) s.clockGuard (microPe en) s

/-- GC, micro-step 1 (spec 40 R117). -/
def microGc (en : Bool) (_ : Nat) (s : State) : Micro :=
  .go 2 (s.ctlWrite { s.ctl with engc := en } .engc (bit en))

/-- GC: general-call enable (spec 40 R117). -/
def execGc (en : Bool) (s : State) : Answer := runCommand (.gc en) s.clockGuard (microGc en) s

/-- The three source enables take the value `en`, each recorded, in the order of spec 40 R118 and 41 R130. -/
def State.enableSources (s : State) (en : Bool) : State :=
  let s1 := s.ctlWrite { s.ctl with itevten := en } .itevten (bit en)
  let s2 := s1.ctlWrite { s1.ctl with itbufen := en } .itbufen (bit en)
  s2.ctlWrite { s2.ctl with iterren := en } .iterren (bit en)

/-- CBEN, micro-step 1 (spec 40 R118). -/
def microCben (en : Bool) (_ : Nat) (s : State) : Micro := .go 2 (s.enableSources en)

/-- CBEN: slave callback enable (spec 40 R118). -/
def execCben (en : Bool) (s : State) : Answer := runCommand (.cben en) s.clockGuard (microCben en) s

/-- IRQEN, micro-step 1 (spec 40 R119). -/
def microIrqen (line : Line) (en : Bool) (_ : Nat) (s : State) : Micro :=
  .go 2 (s.nvicWrite (s.nvic.setEn en line) (.nvicEn line) (bit en))

/-- IRQEN: enable or disable a line in the interrupt controller, whatever CLKEN holds (spec 40 R119). -/
def execIrqen (line : Line) (en : Bool) (s : State) : Answer :=
  runCommand (.irqen line en) none (microIrqen line en) s

/-- IRQPRI, micro-step 1 (spec 40 R120): only the implemented priority bits are kept. -/
def microIrqpri (line : Line) (prio : Byte) (_ : Nat) (s : State) : Micro :=
  .go 2 (s.nvicWrite (s.nvic.setPrio (keptPrio s.launch.prioBits prio) line) (.nvicPrio line)
    (keptPrio s.launch.prioBits prio).toNat)

/-- IRQPRI: set an interrupt priority, whatever CLKEN holds (spec 40 R120). -/
def execIrqpri (line : Line) (prio : Byte) (s : State) : Answer :=
  runCommand (.irqpri line prio) none (microIrqpri line prio) s

/-- FLAG, micro-step 1 (spec 40 R121): a draw and its reply. An index that names no flag is refused, as at
decode (spec 30 R91; log 17). -/
def microFlag (index : BitVec 5) (_ : Nat) (s : State) : Micro :=
  if flagIndexLegal index then .go 2 (s.flagDraw.2.record (.reply .flag s.flagDraw.1.toNat))
  else .done s.refuse

/-- FLAG: raw flag-status query (spec 40 R121). -/
def execFlag (index : BitVec 5) (s : State) : Answer := runCommand (.flag index) s.clockGuard (microFlag index) s

end Sys2Proof.Machine
end

