-- ==== Sys2Proof/Machine/Master.lean ====
section
/-! DEFINITION. Master transfer initiation (spec 41): MTX and MRX, five micro-steps each. -/

namespace Sys2Proof.Machine

/-- Micro-steps 2 to 5 of an accepted initiation (spec 41 R130, R131), the same but for the busy state. -/
def State.initiate (s : State) (op : ReplyOp) (busy : TransferState) (dev : BitVec 7) (sr : Bool)
    (buf len : Word) : Nat → State
  | 2 => s.setCtx { s.ctx with buf := buf, rem := len, dev := dev, sr := sr }
  | 3 => s.setCtx { s.ctx with state := busy }
  | 4 => s.enableSources true
  | 5 => (s.record .busStart).record (.reply op TransferState.ready.code)
  | _ => s

/-- MTX, micro-step by micro-step (spec 41 R130): a busy state is replied and nothing is written. -/
def microMtx (dev : BitVec 7) (sr : Bool) (buf len : Word) (k : Nat) (s : State) : Micro :=
  if k = 1 then
    (if s.ctx.state ≠ .ready then .done (s.record (.reply .mtx s.ctx.state.code)) else .go 2 s)
  else .go (k + 1) (s.initiate .mtx .busyTx dev sr buf len k)

/-- MTX: initiate a master send of `len` bytes from `buf` to slave `dev` (spec 41 R130, R132 to R134). -/
def execMtx (dev : BitVec 7) (sr : Bool) (buf len : Word) (s : State) : Answer :=
  runCommand (.mtx dev sr buf len) s.contextGuard (microMtx dev sr buf len) s

/-- MRX, micro-step by micro-step (spec 41 R131): the busy check comes before the check of a zero length. -/
def microMrx (dev : BitVec 7) (sr : Bool) (buf len : Word) (k : Nat) (s : State) : Micro :=
  if k = 1 then
    (if s.ctx.state ≠ .ready then .done (s.record (.reply .mrx s.ctx.state.code))
     else if len = 0 then .raise .rxZeroLength
     else .go 2 s)
  else .go (k + 1) (s.initiate .mrx .busyRx dev sr buf len k)

/-- MRX: initiate a master receive of `len` bytes from slave `dev` into `buf` (spec 41 R131 to R135). -/
def execMrx (dev : BitVec 7) (sr : Bool) (buf len : Word) (s : State) : Answer :=
  runCommand (.mrx dev sr buf len) s.contextGuard (microMrx dev sr buf len) s

end Sys2Proof.Machine
end

