-- ==== Sys2Proof/Machine/Slave.lean ====
section
/-! DEFINITION. The slave byte exchange (spec 43): STX and SRX, which check neither role nor state. -/

namespace Sys2Proof.Machine

/-- STX, micro-step 1 (spec 43 R170). -/
def microStx (value : Byte) (_ : Nat) (s : State) : Micro := .go 2 (s.record (.busDrw value))

/-- STX: write one byte to the data register (spec 43 R170). -/
def execStx (value : Byte) (s : State) : Answer := runCommand (.stx value) s.clockGuard (microStx value) s

/-- SRX, micro-step 1 (spec 43 R171). -/
def microSrx (_ : Nat) (s : State) : Micro := .go 2 (s.busDrr.2.record (.reply .srx s.busDrr.1.toNat))

/-- SRX: read one byte from the data register (spec 43 R171). -/
def execSrx (s : State) : Answer := runCommand .srx s.clockGuard microSrx s

end Sys2Proof.Machine
end

