-- ==== Sys2Proof/Machine/Dispatch.lean ====
section
/-! DEFINITION. The meaning of each input: one arm per constructor of `Instr`. -/

namespace Sys2Proof.Machine

def exec (i : Instr) (s : State) : Host.Outcome State Fault Refusal :=
  match i with
  | .clk en => Sys2Proof.Machine.execClk en s
  | .init own speed duty ack => Sys2Proof.Machine.execInit own speed duty ack s
  | .deinit => Sys2Proof.Machine.execDeinit s
  | .pe en => Sys2Proof.Machine.execPe en s
  | .gc en => Sys2Proof.Machine.execGc en s
  | .cben en => Sys2Proof.Machine.execCben en s
  | .irqen line en => Sys2Proof.Machine.execIrqen line en s
  | .irqpri line prio => Sys2Proof.Machine.execIrqpri line prio s
  | .mtx dev sr buf len => Sys2Proof.Machine.execMtx dev sr buf len s
  | .mrx dev sr buf len => Sys2Proof.Machine.execMrx dev sr buf len s
  | .closetx => Sys2Proof.Machine.execClosetx s
  | .closerx => Sys2Proof.Machine.execCloserx s
  | .stx value => Sys2Proof.Machine.execStx value s
  | .srx => Sys2Proof.Machine.execSrx s
  | .flag index => Sys2Proof.Machine.execFlag index s
  | .evSb msl tra => Sys2Proof.Machine.execEvSb msl tra s
  | .evAddr msl tra => Sys2Proof.Machine.execEvAddr msl tra s
  | .evBtf msl tra => Sys2Proof.Machine.execEvBtf msl tra s
  | .evStopf msl tra => Sys2Proof.Machine.execEvStopf msl tra s
  | .evRxne msl tra => Sys2Proof.Machine.execEvRxne msl tra s
  | .evTxe msl tra => Sys2Proof.Machine.execEvTxe msl tra s
  | .err flags => Sys2Proof.Machine.execErr flags s

end Sys2Proof.Machine
end

