-- ==== Sys2Proof/Machine/Fetch.lean ====
section
/-! DEFINITION. Which move of the step relation comes next (spec 60 R229): a presented word, the running
context's next micro-step, APP's next command or return, a handler's exit, or MAIN's next input. -/

namespace Sys2Proof.Machine

/-- The micro-steps of a rule (spec 40 to 45). -/
def microOf : Instr → Nat → State → Micro
  | .clk en => microClk en
  | .init own speed duty ack => microInit own speed duty ack
  | .deinit => microDeinit
  | .pe en => microPe en
  | .gc en => microGc en
  | .cben en => microCben en
  | .irqen line en => microIrqen line en
  | .irqpri line prio => microIrqpri line prio
  | .mtx dev sr buf len => microMtx dev sr buf len
  | .mrx dev sr buf len => microMrx dev sr buf len
  | .closetx => microClose
  | .closerx => microClose
  | .stx value => microStx value
  | .srx => microSrx
  | .flag index => microFlag index
  | .evSb _ _ => microSb
  | .evAddr msl _ => microAddr msl
  | .evBtf msl _ => microBtf msl
  | .evStopf msl _ => microStopf msl
  | .evRxne msl tra => microRxne msl tra
  | .evTxe msl tra => microTxe msl tra
  | .err flags => microErr flags

/-- A rule of the running context resumes at micro-step `k` (spec 60 R215, R229 move 2). -/
def resume (i : Instr) (k : Nat) (s : State) : Answer := runRule i (microOf i) maxMicro k s

/-- APP returns from the callback of rule `i`, which ends the emitting micro-step (spec 60 R216). -/
def callbackReturn (i : Instr) (k : Nat) (s : State) : Answer := proceed i (runRule i (microOf i) maxMicro) k s

/-- The move that comes next: an input to execute, or what the other moves answer. -/
inductive Fetched where
  | exec (i : Instr) (s : State)
  | answer (a : Answer)

/-- An agent puts out the words `w :: ws` (spec 60 R221). On their port they are decoded: an input is executed, a
reserved event or error word starts its handler with nothing to run (30 R92, 42 R149), and words that spell nothing
set the refusal mark (30 R86, R91, 60 R202). Off their port they have no move: that holds of an illegal class-00 word
of PERIPH too, where R91 and R202 refuse the word and R221 gives it no port, and the spec does not say which holds.
DESIGN CHOICE (log 11): no move. The spec does not say how a run goes on after a refusal, nor whether a word may be
presented between a refused input and the next one (42 R150). DESIGN CHOICE (log 9, 19): the words are used up and a
moment passes, after which a word of PERIPH may come. `put` puts back the words not read. -/
def fetchInput (a : Agent) (w : Word) (ws : List Word) (put : List Word → State) : Fetched :=
  if a.issues (portClass w) then
    match decode (w :: ws) with
    | .instr i rest => .exec i (put rest)
    | .ignored rest => .answer (runReserved (lineOfClass (portClass w)) (put rest))
    | .illegal _ rest => .answer (.next (put rest).refuse.elapse)
  else .answer (.refused .wrongPort)

/-- The running context's own move: its innermost entry goes on, or, with none, a handler exits and MAIN
takes its next input. With no input left MAIN waits (log 14). -/
def fetchOwn (s : State) : Fetched :=
  match s.frames with
  | .rule i k :: fs => .answer (resume i k (s.setFrames fs))
  | .callback ev (w :: ws) :: fs => fetchInput .app w ws fun rest => s.setFrames (.callback ev rest :: fs)
  | .callback _ [] :: .rule i k :: fs => .answer (callbackReturn i k (s.setFrames fs))
  | .callback _ [] :: fs => .answer (.next (s.setFrames fs))
  | [] =>
    match s.top with
    | .evh | .erh => .answer (.next s.leave.elapse)
    | .main =>
      match s.mainIn with
      | [] => .answer (.next s.elapse)
      | w :: ws => fetchInput .main w ws fun rest => { s with mainIn := rest }

/-- The agent that moves next (spec 00 R4, 60 R229): PERIPH where its word is due, else APP in an open callback,
else the agent of the running context. -/
def State.mover (s : State) : Agent :=
  if s.due then .periph
  else match s.frames with
    | .callback _ _ :: _ => .app
    | .rule _ _ :: _ | [] => s.top.agent

/-- The next move (spec 60 R229): none from a faulted state (R201); PERIPH's word where PERIPH moves; otherwise the
running context's, with APP inside it. -/
def fetch (s : State) : Fetched :=
  match s.fault with
  | some c => .answer (.fault (.marked c))
  | none =>
    match s.mover, s.pres with
    | .periph, p :: ps => fetchInput .periph p.word [] fun _ => { s with pres := ps }
    | _, _ => fetchOwn s

/-! ## Placing one input (log 13) -/

/-- The machine with nothing begun above MAIN and nothing due, so that the next move is an input's. -/
def State.idle (s : State) : State := { s with stack := [.main], mid := Mid.reset, fault := none, pres := [] }

/-- MAIN's next input is these words: the command's own, without the table's empty words after it. -/
def placeCommand (ws : List Word) (s : State) : State :=
  { s.idle with mainIn := ws.take (inputLength (ws.headD 0)) ++ s.mainIn }

/-- PERIPH presents this event word now, with the gate of the event line open (spec 42 R140). -/
def placeEvent (w : Word) (s : State) : State :=
  { s.idle with
    pres := [⟨0, w⟩], clken := true, nvic := { s.nvic with enEv := true },
    ctl := { s.ctl with itevten := true, itbufen := true } }

/-- PERIPH presents this error word now, with the gate of the error line open (spec 44 R175). -/
def placeError (w : Word) (s : State) : State :=
  { s.idle with
    pres := [⟨0, w⟩], clken := true, nvic := { s.nvic with enEr := true },
    ctl := { s.ctl with iterren := true } }

/-- Places an input, given by its words, where the next step takes it. -/
def placeInput (ws : List Word) (s : State) : State :=
  match portClass (ws.headD 0) with
  | .event => placeEvent (ws.headD 0) s
  | .error => placeError (ws.headD 0) s
  | .command | .reserved => placeCommand ws s

end Sys2Proof.Machine
end

