-- ==== Sys2Proof/Machine/Step.lean ====
section
/-! DEFINITION. One step of the block (spec 60 R229), and an input placed where the next step takes it. -/

namespace Sys2Proof.Machine

/-- One move of the step relation (spec 60 R229). -/
def step (s : State) : Host.Outcome State Fault Refusal :=
  match fetch s with
  | .exec i s1 => exec i s1
  | .answer a => a

/-- `s` with the input whose bits are `w`, numbered as spec/opcode_table.json numbers them, placed where the
next step takes it (log 13). -/
def State.withFetchWord (s : State) (nbits w : Nat) : State := placeInput (tableWords nbits w) s

end Sys2Proof.Machine
end

