-- ==== Sys2Proof/Laws/State.lean ====
section
/-! SUPPORT. One lemma for each field after each primitive update of the state, so that no later proof unfolds a
record update; and the same for what is read off the state (`top`, `frames`, `due`, `quiet`, `admits`). -/

namespace Sys2Proof.Machine

variable (s : State)

@[simp] theorem State.record_ctx (a : Action) : (s.record a).ctx = s.ctx := rfl
@[simp] theorem State.record_cfg (a : Action) : (s.record a).cfg = s.cfg := rfl
@[simp] theorem State.record_ctl (a : Action) : (s.record a).ctl = s.ctl := rfl
@[simp] theorem State.record_clken (a : Action) : (s.record a).clken = s.clken := rfl
@[simp] theorem State.record_nvic (a : Action) : (s.record a).nvic = s.nvic := rfl
@[simp] theorem State.record_stack (a : Action) : (s.record a).stack = s.stack := rfl
@[simp] theorem State.record_mid (a : Action) : (s.record a).mid = s.mid := rfl
@[simp] theorem State.record_fault (a : Action) : (s.record a).fault = s.fault := rfl
@[simp] theorem State.record_refused (a : Action) : (s.record a).refused = s.refused := rfl
@[simp] theorem State.record_hist (a : Action) : (s.record a).hist = s.hist ++ [⟨s.top, a⟩] := rfl
@[simp] theorem State.record_mem (a : Action) : (s.record a).mem = s.mem := rfl
@[simp] theorem State.record_launch (a : Action) : (s.record a).launch = s.launch := rfl
@[simp] theorem State.record_draws (a : Action) : (s.record a).draws = s.draws := rfl
@[simp] theorem State.record_mainIn (a : Action) : (s.record a).mainIn = s.mainIn := rfl
@[simp] theorem State.record_pres (a : Action) : (s.record a).pres = s.pres := rfl
@[simp] theorem State.record_app (a : Action) : (s.record a).app = s.app := rfl
@[simp] theorem State.record_top (a : Action) : (s.record a).top = s.top := rfl
@[simp] theorem State.record_frames (a : Action) : (s.record a).frames = s.frames := rfl
@[simp] theorem State.record_due (a : Action) : (s.record a).due = s.due := rfl
@[simp] theorem State.record_quiet (a : Action) (j : Nat) : (s.record a).quiet j = s.quiet j := rfl
@[simp] theorem State.record_admits (a : Action) (x : Word) : (s.record a).admits x = s.admits x := rfl
@[simp] theorem State.record_appCommands (a : Action) : (s.record a).appCommands = s.appCommands := rfl

@[simp] theorem State.ctlWrite_ctx (c : CtlFields) (f : CtlField) (v : Nat) : (s.ctlWrite c f v).ctx = s.ctx := rfl
@[simp] theorem State.ctlWrite_cfg (c : CtlFields) (f : CtlField) (v : Nat) : (s.ctlWrite c f v).cfg = s.cfg := rfl
@[simp] theorem State.ctlWrite_ctl (c : CtlFields) (f : CtlField) (v : Nat) : (s.ctlWrite c f v).ctl = c := rfl
@[simp] theorem State.ctlWrite_clken (c : CtlFields) (f : CtlField) (v : Nat) : (s.ctlWrite c f v).clken = s.clken := rfl
@[simp] theorem State.ctlWrite_nvic (c : CtlFields) (f : CtlField) (v : Nat) : (s.ctlWrite c f v).nvic = s.nvic := rfl
@[simp] theorem State.ctlWrite_stack (c : CtlFields) (f : CtlField) (v : Nat) : (s.ctlWrite c f v).stack = s.stack := rfl
@[simp] theorem State.ctlWrite_mid (c : CtlFields) (f : CtlField) (v : Nat) : (s.ctlWrite c f v).mid = s.mid := rfl
@[simp] theorem State.ctlWrite_fault (c : CtlFields) (f : CtlField) (v : Nat) : (s.ctlWrite c f v).fault = s.fault := rfl
@[simp] theorem State.ctlWrite_refused (c : CtlFields) (f : CtlField) (v : Nat) : (s.ctlWrite c f v).refused = s.refused := rfl
@[simp] theorem State.ctlWrite_hist (c : CtlFields) (f : CtlField) (v : Nat) : (s.ctlWrite c f v).hist = s.hist ++ [⟨s.top, .ctl f v⟩] := rfl
@[simp] theorem State.ctlWrite_mem (c : CtlFields) (f : CtlField) (v : Nat) : (s.ctlWrite c f v).mem = s.mem := rfl
@[simp] theorem State.ctlWrite_launch (c : CtlFields) (f : CtlField) (v : Nat) : (s.ctlWrite c f v).launch = s.launch := rfl
@[simp] theorem State.ctlWrite_draws (c : CtlFields) (f : CtlField) (v : Nat) : (s.ctlWrite c f v).draws = s.draws := rfl
@[simp] theorem State.ctlWrite_mainIn (c : CtlFields) (f : CtlField) (v : Nat) : (s.ctlWrite c f v).mainIn = s.mainIn := rfl
@[simp] theorem State.ctlWrite_pres (c : CtlFields) (f : CtlField) (v : Nat) : (s.ctlWrite c f v).pres = s.pres := rfl
@[simp] theorem State.ctlWrite_app (c : CtlFields) (f : CtlField) (v : Nat) : (s.ctlWrite c f v).app = s.app := rfl
@[simp] theorem State.ctlWrite_top (c : CtlFields) (f : CtlField) (v : Nat) : (s.ctlWrite c f v).top = s.top := rfl
@[simp] theorem State.ctlWrite_frames (c : CtlFields) (f : CtlField) (v : Nat) : (s.ctlWrite c f v).frames = s.frames := rfl
@[simp] theorem State.ctlWrite_due (c : CtlFields) (f : CtlField) (v : Nat) : (s.ctlWrite c f v).due = s.due := rfl
@[simp] theorem State.ctlWrite_quiet (c : CtlFields) (f : CtlField) (v : Nat) (j : Nat) : (s.ctlWrite c f v).quiet j = s.quiet j := rfl
@[simp] theorem State.ctlWrite_admits (c : CtlFields) (f : CtlField) (v : Nat) (x : Word) : (s.ctlWrite c f v).admits x = s.admits x := rfl
@[simp] theorem State.ctlWrite_appCommands (c : CtlFields) (f : CtlField) (v : Nat) : (s.ctlWrite c f v).appCommands = s.appCommands := rfl

@[simp] theorem State.setCtx_ctx (c : TransferContext) : (s.setCtx c).ctx = c := rfl
@[simp] theorem State.setCtx_cfg (c : TransferContext) : (s.setCtx c).cfg = s.cfg := rfl
@[simp] theorem State.setCtx_ctl (c : TransferContext) : (s.setCtx c).ctl = s.ctl := rfl
@[simp] theorem State.setCtx_clken (c : TransferContext) : (s.setCtx c).clken = s.clken := rfl
@[simp] theorem State.setCtx_nvic (c : TransferContext) : (s.setCtx c).nvic = s.nvic := rfl
@[simp] theorem State.setCtx_stack (c : TransferContext) : (s.setCtx c).stack = s.stack := rfl
@[simp] theorem State.setCtx_mid (c : TransferContext) : (s.setCtx c).mid = s.mid := rfl
@[simp] theorem State.setCtx_fault (c : TransferContext) : (s.setCtx c).fault = s.fault := rfl
@[simp] theorem State.setCtx_refused (c : TransferContext) : (s.setCtx c).refused = s.refused := rfl
@[simp] theorem State.setCtx_hist (c : TransferContext) : (s.setCtx c).hist = s.hist := rfl
@[simp] theorem State.setCtx_mem (c : TransferContext) : (s.setCtx c).mem = s.mem := rfl
@[simp] theorem State.setCtx_launch (c : TransferContext) : (s.setCtx c).launch = s.launch := rfl
@[simp] theorem State.setCtx_draws (c : TransferContext) : (s.setCtx c).draws = s.draws := rfl
@[simp] theorem State.setCtx_mainIn (c : TransferContext) : (s.setCtx c).mainIn = s.mainIn := rfl
@[simp] theorem State.setCtx_pres (c : TransferContext) : (s.setCtx c).pres = s.pres := rfl
@[simp] theorem State.setCtx_app (c : TransferContext) : (s.setCtx c).app = s.app := rfl
@[simp] theorem State.setCtx_top (c : TransferContext) : (s.setCtx c).top = s.top := rfl
@[simp] theorem State.setCtx_frames (c : TransferContext) : (s.setCtx c).frames = s.frames := rfl
@[simp] theorem State.setCtx_due (c : TransferContext) : (s.setCtx c).due = s.due := rfl
@[simp] theorem State.setCtx_quiet (c : TransferContext) (j : Nat) : (s.setCtx c).quiet j = s.quiet j := rfl
@[simp] theorem State.setCtx_admits (c : TransferContext) (x : Word) : (s.setCtx c).admits x = s.admits x := rfl
@[simp] theorem State.setCtx_appCommands (c : TransferContext) : (s.setCtx c).appCommands = s.appCommands := rfl

@[simp] theorem State.setCfg_ctx (c : ConfigRecord) : (s.setCfg c).ctx = s.ctx := rfl
@[simp] theorem State.setCfg_cfg (c : ConfigRecord) : (s.setCfg c).cfg = c := rfl
@[simp] theorem State.setCfg_ctl (c : ConfigRecord) : (s.setCfg c).ctl = s.ctl := rfl
@[simp] theorem State.setCfg_clken (c : ConfigRecord) : (s.setCfg c).clken = s.clken := rfl
@[simp] theorem State.setCfg_nvic (c : ConfigRecord) : (s.setCfg c).nvic = s.nvic := rfl
@[simp] theorem State.setCfg_stack (c : ConfigRecord) : (s.setCfg c).stack = s.stack := rfl
@[simp] theorem State.setCfg_mid (c : ConfigRecord) : (s.setCfg c).mid = s.mid := rfl
@[simp] theorem State.setCfg_fault (c : ConfigRecord) : (s.setCfg c).fault = s.fault := rfl
@[simp] theorem State.setCfg_refused (c : ConfigRecord) : (s.setCfg c).refused = s.refused := rfl
@[simp] theorem State.setCfg_hist (c : ConfigRecord) : (s.setCfg c).hist = s.hist := rfl
@[simp] theorem State.setCfg_mem (c : ConfigRecord) : (s.setCfg c).mem = s.mem := rfl
@[simp] theorem State.setCfg_launch (c : ConfigRecord) : (s.setCfg c).launch = s.launch := rfl
@[simp] theorem State.setCfg_draws (c : ConfigRecord) : (s.setCfg c).draws = s.draws := rfl
@[simp] theorem State.setCfg_mainIn (c : ConfigRecord) : (s.setCfg c).mainIn = s.mainIn := rfl
@[simp] theorem State.setCfg_pres (c : ConfigRecord) : (s.setCfg c).pres = s.pres := rfl
@[simp] theorem State.setCfg_app (c : ConfigRecord) : (s.setCfg c).app = s.app := rfl
@[simp] theorem State.setCfg_top (c : ConfigRecord) : (s.setCfg c).top = s.top := rfl
@[simp] theorem State.setCfg_frames (c : ConfigRecord) : (s.setCfg c).frames = s.frames := rfl
@[simp] theorem State.setCfg_due (c : ConfigRecord) : (s.setCfg c).due = s.due := rfl
@[simp] theorem State.setCfg_quiet (c : ConfigRecord) (j : Nat) : (s.setCfg c).quiet j = s.quiet j := rfl
@[simp] theorem State.setCfg_admits (c : ConfigRecord) (x : Word) : (s.setCfg c).admits x = s.admits x := rfl
@[simp] theorem State.setCfg_appCommands (c : ConfigRecord) : (s.setCfg c).appCommands = s.appCommands := rfl

@[simp] theorem State.setClken_ctx (en : Bool) (v : Nat) : (s.setClken en v).ctx = s.ctx := rfl
@[simp] theorem State.setClken_cfg (en : Bool) (v : Nat) : (s.setClken en v).cfg = s.cfg := rfl
@[simp] theorem State.setClken_ctl (en : Bool) (v : Nat) : (s.setClken en v).ctl = s.ctl := rfl
@[simp] theorem State.setClken_clken (en : Bool) (v : Nat) : (s.setClken en v).clken = en := rfl
@[simp] theorem State.setClken_nvic (en : Bool) (v : Nat) : (s.setClken en v).nvic = s.nvic := rfl
@[simp] theorem State.setClken_stack (en : Bool) (v : Nat) : (s.setClken en v).stack = s.stack := rfl
@[simp] theorem State.setClken_mid (en : Bool) (v : Nat) : (s.setClken en v).mid = s.mid := rfl
@[simp] theorem State.setClken_fault (en : Bool) (v : Nat) : (s.setClken en v).fault = s.fault := rfl
@[simp] theorem State.setClken_refused (en : Bool) (v : Nat) : (s.setClken en v).refused = s.refused := rfl
@[simp] theorem State.setClken_hist (en : Bool) (v : Nat) : (s.setClken en v).hist = s.hist ++ [⟨s.top, .ctl .clken v⟩] := rfl
@[simp] theorem State.setClken_mem (en : Bool) (v : Nat) : (s.setClken en v).mem = s.mem := rfl
@[simp] theorem State.setClken_launch (en : Bool) (v : Nat) : (s.setClken en v).launch = s.launch := rfl
@[simp] theorem State.setClken_draws (en : Bool) (v : Nat) : (s.setClken en v).draws = s.draws := rfl
@[simp] theorem State.setClken_mainIn (en : Bool) (v : Nat) : (s.setClken en v).mainIn = s.mainIn := rfl
@[simp] theorem State.setClken_pres (en : Bool) (v : Nat) : (s.setClken en v).pres = s.pres := rfl
@[simp] theorem State.setClken_app (en : Bool) (v : Nat) : (s.setClken en v).app = s.app := rfl
@[simp] theorem State.setClken_top (en : Bool) (v : Nat) : (s.setClken en v).top = s.top := rfl
@[simp] theorem State.setClken_frames (en : Bool) (v : Nat) : (s.setClken en v).frames = s.frames := rfl
@[simp] theorem State.setClken_due (en : Bool) (v : Nat) : (s.setClken en v).due = s.due := rfl
@[simp] theorem State.setClken_quiet (en : Bool) (v : Nat) (j : Nat) : (s.setClken en v).quiet j = s.quiet j := rfl
@[simp] theorem State.setClken_admits (en : Bool) (v : Nat) (x : Word) : (s.setClken en v).admits x = s.admits x := rfl
@[simp] theorem State.setClken_appCommands (en : Bool) (v : Nat) : (s.setClken en v).appCommands = s.appCommands := rfl

@[simp] theorem State.nvicWrite_ctx (n : Nvic) (f : CtlField) (v : Nat) : (s.nvicWrite n f v).ctx = s.ctx := rfl
@[simp] theorem State.nvicWrite_cfg (n : Nvic) (f : CtlField) (v : Nat) : (s.nvicWrite n f v).cfg = s.cfg := rfl
@[simp] theorem State.nvicWrite_ctl (n : Nvic) (f : CtlField) (v : Nat) : (s.nvicWrite n f v).ctl = s.ctl := rfl
@[simp] theorem State.nvicWrite_clken (n : Nvic) (f : CtlField) (v : Nat) : (s.nvicWrite n f v).clken = s.clken := rfl
@[simp] theorem State.nvicWrite_nvic (n : Nvic) (f : CtlField) (v : Nat) : (s.nvicWrite n f v).nvic = n := rfl
@[simp] theorem State.nvicWrite_stack (n : Nvic) (f : CtlField) (v : Nat) : (s.nvicWrite n f v).stack = s.stack := rfl
@[simp] theorem State.nvicWrite_mid (n : Nvic) (f : CtlField) (v : Nat) : (s.nvicWrite n f v).mid = s.mid := rfl
@[simp] theorem State.nvicWrite_fault (n : Nvic) (f : CtlField) (v : Nat) : (s.nvicWrite n f v).fault = s.fault := rfl
@[simp] theorem State.nvicWrite_refused (n : Nvic) (f : CtlField) (v : Nat) : (s.nvicWrite n f v).refused = s.refused := rfl
@[simp] theorem State.nvicWrite_hist (n : Nvic) (f : CtlField) (v : Nat) : (s.nvicWrite n f v).hist = s.hist ++ [⟨s.top, .ctl f v⟩] := rfl
@[simp] theorem State.nvicWrite_mem (n : Nvic) (f : CtlField) (v : Nat) : (s.nvicWrite n f v).mem = s.mem := rfl
@[simp] theorem State.nvicWrite_launch (n : Nvic) (f : CtlField) (v : Nat) : (s.nvicWrite n f v).launch = s.launch := rfl
@[simp] theorem State.nvicWrite_draws (n : Nvic) (f : CtlField) (v : Nat) : (s.nvicWrite n f v).draws = s.draws := rfl
@[simp] theorem State.nvicWrite_mainIn (n : Nvic) (f : CtlField) (v : Nat) : (s.nvicWrite n f v).mainIn = s.mainIn := rfl
@[simp] theorem State.nvicWrite_pres (n : Nvic) (f : CtlField) (v : Nat) : (s.nvicWrite n f v).pres = s.pres := rfl
@[simp] theorem State.nvicWrite_app (n : Nvic) (f : CtlField) (v : Nat) : (s.nvicWrite n f v).app = s.app := rfl
@[simp] theorem State.nvicWrite_top (n : Nvic) (f : CtlField) (v : Nat) : (s.nvicWrite n f v).top = s.top := rfl
@[simp] theorem State.nvicWrite_frames (n : Nvic) (f : CtlField) (v : Nat) : (s.nvicWrite n f v).frames = s.frames := rfl
@[simp] theorem State.nvicWrite_due (n : Nvic) (f : CtlField) (v : Nat) : (s.nvicWrite n f v).due = s.due := rfl
@[simp] theorem State.nvicWrite_quiet (n : Nvic) (f : CtlField) (v : Nat) (j : Nat) : (s.nvicWrite n f v).quiet j = s.quiet j := rfl
@[simp] theorem State.nvicWrite_admits (n : Nvic) (f : CtlField) (v : Nat) (x : Word) : (s.nvicWrite n f v).admits x = s.admits x := rfl
@[simp] theorem State.nvicWrite_appCommands (n : Nvic) (f : CtlField) (v : Nat) : (s.nvicWrite n f v).appCommands = s.appCommands := rfl

@[simp] theorem State.memWrite_ctx (a : Word) (v : Byte) : (s.memWrite a v).ctx = s.ctx := rfl
@[simp] theorem State.memWrite_cfg (a : Word) (v : Byte) : (s.memWrite a v).cfg = s.cfg := rfl
@[simp] theorem State.memWrite_ctl (a : Word) (v : Byte) : (s.memWrite a v).ctl = s.ctl := rfl
@[simp] theorem State.memWrite_clken (a : Word) (v : Byte) : (s.memWrite a v).clken = s.clken := rfl
@[simp] theorem State.memWrite_nvic (a : Word) (v : Byte) : (s.memWrite a v).nvic = s.nvic := rfl
@[simp] theorem State.memWrite_stack (a : Word) (v : Byte) : (s.memWrite a v).stack = s.stack := rfl
@[simp] theorem State.memWrite_mid (a : Word) (v : Byte) : (s.memWrite a v).mid = s.mid := rfl
@[simp] theorem State.memWrite_fault (a : Word) (v : Byte) : (s.memWrite a v).fault = s.fault := rfl
@[simp] theorem State.memWrite_refused (a : Word) (v : Byte) : (s.memWrite a v).refused = s.refused := rfl
@[simp] theorem State.memWrite_hist (a : Word) (v : Byte) : (s.memWrite a v).hist = s.hist ++ [⟨s.top, .memW a v⟩] := rfl
@[simp] theorem State.memWrite_mem (a : Word) (v : Byte) : (s.memWrite a v).mem = Memory.write s.mem a.toNat v := rfl
@[simp] theorem State.memWrite_launch (a : Word) (v : Byte) : (s.memWrite a v).launch = s.launch := rfl
@[simp] theorem State.memWrite_draws (a : Word) (v : Byte) : (s.memWrite a v).draws = s.draws := rfl
@[simp] theorem State.memWrite_mainIn (a : Word) (v : Byte) : (s.memWrite a v).mainIn = s.mainIn := rfl
@[simp] theorem State.memWrite_pres (a : Word) (v : Byte) : (s.memWrite a v).pres = s.pres := rfl
@[simp] theorem State.memWrite_app (a : Word) (v : Byte) : (s.memWrite a v).app = s.app := rfl
@[simp] theorem State.memWrite_top (a : Word) (v : Byte) : (s.memWrite a v).top = s.top := rfl
@[simp] theorem State.memWrite_frames (a : Word) (v : Byte) : (s.memWrite a v).frames = s.frames := rfl
@[simp] theorem State.memWrite_due (a : Word) (v : Byte) : (s.memWrite a v).due = s.due := rfl
@[simp] theorem State.memWrite_quiet (a : Word) (v : Byte) (j : Nat) : (s.memWrite a v).quiet j = s.quiet j := rfl
@[simp] theorem State.memWrite_admits (a : Word) (v : Byte) (x : Word) : (s.memWrite a v).admits x = s.admits x := rfl
@[simp] theorem State.memWrite_appCommands (a : Word) (v : Byte) : (s.memWrite a v).appCommands = s.appCommands := rfl

@[simp] theorem State.drawn_ctx : s.drawn.ctx = s.ctx := rfl
@[simp] theorem State.drawn_cfg : s.drawn.cfg = s.cfg := rfl
@[simp] theorem State.drawn_ctl : s.drawn.ctl = s.ctl := rfl
@[simp] theorem State.drawn_clken : s.drawn.clken = s.clken := rfl
@[simp] theorem State.drawn_nvic : s.drawn.nvic = s.nvic := rfl
@[simp] theorem State.drawn_stack : s.drawn.stack = s.stack := rfl
@[simp] theorem State.drawn_mid : s.drawn.mid = s.mid := rfl
@[simp] theorem State.drawn_fault : s.drawn.fault = s.fault := rfl
@[simp] theorem State.drawn_refused : s.drawn.refused = s.refused := rfl
@[simp] theorem State.drawn_hist : s.drawn.hist = s.hist := rfl
@[simp] theorem State.drawn_mem : s.drawn.mem = s.mem := rfl
@[simp] theorem State.drawn_launch : s.drawn.launch = s.launch := rfl
@[simp] theorem State.drawn_draws : s.drawn.draws = s.draws + 1 := rfl
@[simp] theorem State.drawn_mainIn : s.drawn.mainIn = s.mainIn := rfl
@[simp] theorem State.drawn_pres : s.drawn.pres = s.pres := rfl
@[simp] theorem State.drawn_app : s.drawn.app = s.app := rfl
@[simp] theorem State.drawn_top : s.drawn.top = s.top := rfl
@[simp] theorem State.drawn_frames : s.drawn.frames = s.frames := rfl
@[simp] theorem State.drawn_due : s.drawn.due = s.due := rfl
@[simp] theorem State.drawn_quiet (j : Nat) : s.drawn.quiet j = s.quiet j := rfl
@[simp] theorem State.drawn_admits (x : Word) : s.drawn.admits x = s.admits x := rfl
@[simp] theorem State.drawn_appCommands : s.drawn.appCommands = s.appCommands := rfl

@[simp] theorem State.raise_ctx (c : FaultCode) : (s.raise c).ctx = s.ctx := rfl
@[simp] theorem State.raise_cfg (c : FaultCode) : (s.raise c).cfg = s.cfg := rfl
@[simp] theorem State.raise_ctl (c : FaultCode) : (s.raise c).ctl = s.ctl := rfl
@[simp] theorem State.raise_clken (c : FaultCode) : (s.raise c).clken = s.clken := rfl
@[simp] theorem State.raise_nvic (c : FaultCode) : (s.raise c).nvic = s.nvic := rfl
@[simp] theorem State.raise_stack (c : FaultCode) : (s.raise c).stack = s.stack := rfl
@[simp] theorem State.raise_mid (c : FaultCode) : (s.raise c).mid = s.mid := rfl
@[simp] theorem State.raise_fault (c : FaultCode) : (s.raise c).fault = some c := rfl
@[simp] theorem State.raise_refused (c : FaultCode) : (s.raise c).refused = s.refused := rfl
@[simp] theorem State.raise_hist (c : FaultCode) : (s.raise c).hist = s.hist := rfl
@[simp] theorem State.raise_mem (c : FaultCode) : (s.raise c).mem = s.mem := rfl
@[simp] theorem State.raise_launch (c : FaultCode) : (s.raise c).launch = s.launch := rfl
@[simp] theorem State.raise_draws (c : FaultCode) : (s.raise c).draws = s.draws := rfl
@[simp] theorem State.raise_mainIn (c : FaultCode) : (s.raise c).mainIn = s.mainIn := rfl
@[simp] theorem State.raise_pres (c : FaultCode) : (s.raise c).pres = s.pres := rfl
@[simp] theorem State.raise_app (c : FaultCode) : (s.raise c).app = s.app := rfl
@[simp] theorem State.raise_top (c : FaultCode) : (s.raise c).top = s.top := rfl
@[simp] theorem State.raise_frames (c : FaultCode) : (s.raise c).frames = s.frames := rfl
@[simp] theorem State.raise_due (c : FaultCode) : (s.raise c).due = s.due := rfl
@[simp] theorem State.raise_quiet (c : FaultCode) (j : Nat) : (s.raise c).quiet j = s.quiet j := rfl
@[simp] theorem State.raise_admits (c : FaultCode) (x : Word) : (s.raise c).admits x = s.admits x := rfl
@[simp] theorem State.raise_appCommands (c : FaultCode) : (s.raise c).appCommands = s.appCommands := rfl

@[simp] theorem State.refuse_ctx : s.refuse.ctx = s.ctx := rfl
@[simp] theorem State.refuse_cfg : s.refuse.cfg = s.cfg := rfl
@[simp] theorem State.refuse_ctl : s.refuse.ctl = s.ctl := rfl
@[simp] theorem State.refuse_clken : s.refuse.clken = s.clken := rfl
@[simp] theorem State.refuse_nvic : s.refuse.nvic = s.nvic := rfl
@[simp] theorem State.refuse_stack : s.refuse.stack = s.stack := rfl
@[simp] theorem State.refuse_mid : s.refuse.mid = s.mid := rfl
@[simp] theorem State.refuse_fault : s.refuse.fault = s.fault := rfl
@[simp] theorem State.refuse_refused : s.refuse.refused = some .illegalInput := rfl
@[simp] theorem State.refuse_hist : s.refuse.hist = s.hist := rfl
@[simp] theorem State.refuse_mem : s.refuse.mem = s.mem := rfl
@[simp] theorem State.refuse_launch : s.refuse.launch = s.launch := rfl
@[simp] theorem State.refuse_draws : s.refuse.draws = s.draws := rfl
@[simp] theorem State.refuse_mainIn : s.refuse.mainIn = s.mainIn := rfl
@[simp] theorem State.refuse_pres : s.refuse.pres = s.pres := rfl
@[simp] theorem State.refuse_app : s.refuse.app = s.app := rfl
@[simp] theorem State.refuse_top : s.refuse.top = s.top := rfl
@[simp] theorem State.refuse_frames : s.refuse.frames = s.frames := rfl
@[simp] theorem State.refuse_due : s.refuse.due = s.due := rfl
@[simp] theorem State.refuse_quiet (j : Nat) : s.refuse.quiet j = s.quiet j := rfl
@[simp] theorem State.refuse_admits (x : Word) : s.refuse.admits x = s.admits x := rfl
@[simp] theorem State.refuse_appCommands : s.refuse.appCommands = s.appCommands := rfl

@[simp] theorem State.setFrames_ctx (fs : List Frame) : (s.setFrames fs).ctx = s.ctx := rfl
@[simp] theorem State.setFrames_cfg (fs : List Frame) : (s.setFrames fs).cfg = s.cfg := rfl
@[simp] theorem State.setFrames_ctl (fs : List Frame) : (s.setFrames fs).ctl = s.ctl := rfl
@[simp] theorem State.setFrames_clken (fs : List Frame) : (s.setFrames fs).clken = s.clken := rfl
@[simp] theorem State.setFrames_nvic (fs : List Frame) : (s.setFrames fs).nvic = s.nvic := rfl
@[simp] theorem State.setFrames_stack (fs : List Frame) : (s.setFrames fs).stack = s.stack := rfl
@[simp] theorem State.setFrames_mid (fs : List Frame) : (s.setFrames fs).mid = s.mid.set fs s.top := rfl
@[simp] theorem State.setFrames_fault (fs : List Frame) : (s.setFrames fs).fault = s.fault := rfl
@[simp] theorem State.setFrames_refused (fs : List Frame) : (s.setFrames fs).refused = s.refused := rfl
@[simp] theorem State.setFrames_hist (fs : List Frame) : (s.setFrames fs).hist = s.hist := rfl
@[simp] theorem State.setFrames_mem (fs : List Frame) : (s.setFrames fs).mem = s.mem := rfl
@[simp] theorem State.setFrames_launch (fs : List Frame) : (s.setFrames fs).launch = s.launch := rfl
@[simp] theorem State.setFrames_draws (fs : List Frame) : (s.setFrames fs).draws = s.draws := rfl
@[simp] theorem State.setFrames_mainIn (fs : List Frame) : (s.setFrames fs).mainIn = s.mainIn := rfl
@[simp] theorem State.setFrames_pres (fs : List Frame) : (s.setFrames fs).pres = s.pres := rfl
@[simp] theorem State.setFrames_app (fs : List Frame) : (s.setFrames fs).app = s.app := rfl
@[simp] theorem State.setFrames_top (fs : List Frame) : (s.setFrames fs).top = s.top := rfl
@[simp] theorem State.setFrames_due (fs : List Frame) : (s.setFrames fs).due = s.due := rfl
@[simp] theorem State.setFrames_quiet (fs : List Frame) (j : Nat) : (s.setFrames fs).quiet j = s.quiet j := rfl
@[simp] theorem State.setFrames_admits (fs : List Frame) (x : Word) : (s.setFrames fs).admits x = s.admits x := rfl
@[simp] theorem State.setFrames_appCommands (fs : List Frame) : (s.setFrames fs).appCommands = s.appCommands := rfl

@[simp] theorem State.suspend_ctx (i : Instr) (k : Nat) : (s.suspend i k).ctx = s.ctx := rfl
@[simp] theorem State.suspend_cfg (i : Instr) (k : Nat) : (s.suspend i k).cfg = s.cfg := rfl
@[simp] theorem State.suspend_ctl (i : Instr) (k : Nat) : (s.suspend i k).ctl = s.ctl := rfl
@[simp] theorem State.suspend_clken (i : Instr) (k : Nat) : (s.suspend i k).clken = s.clken := rfl
@[simp] theorem State.suspend_nvic (i : Instr) (k : Nat) : (s.suspend i k).nvic = s.nvic := rfl
@[simp] theorem State.suspend_stack (i : Instr) (k : Nat) : (s.suspend i k).stack = s.stack := rfl
@[simp] theorem State.suspend_mid (i : Instr) (k : Nat) : (s.suspend i k).mid = s.mid.set (.rule i k :: s.frames) s.top := rfl
@[simp] theorem State.suspend_fault (i : Instr) (k : Nat) : (s.suspend i k).fault = s.fault := rfl
@[simp] theorem State.suspend_refused (i : Instr) (k : Nat) : (s.suspend i k).refused = s.refused := rfl
@[simp] theorem State.suspend_hist (i : Instr) (k : Nat) : (s.suspend i k).hist = s.hist := rfl
@[simp] theorem State.suspend_mem (i : Instr) (k : Nat) : (s.suspend i k).mem = s.mem := rfl
@[simp] theorem State.suspend_launch (i : Instr) (k : Nat) : (s.suspend i k).launch = s.launch := rfl
@[simp] theorem State.suspend_draws (i : Instr) (k : Nat) : (s.suspend i k).draws = s.draws := rfl
@[simp] theorem State.suspend_mainIn (i : Instr) (k : Nat) : (s.suspend i k).mainIn = s.mainIn := rfl
@[simp] theorem State.suspend_pres (i : Instr) (k : Nat) : (s.suspend i k).pres = s.pres := rfl
@[simp] theorem State.suspend_app (i : Instr) (k : Nat) : (s.suspend i k).app = s.app := rfl
@[simp] theorem State.suspend_top (i : Instr) (k : Nat) : (s.suspend i k).top = s.top := rfl
@[simp] theorem State.suspend_due (i : Instr) (k : Nat) : (s.suspend i k).due = s.due := rfl
@[simp] theorem State.suspend_quiet (i : Instr) (k : Nat) (j : Nat) : (s.suspend i k).quiet j = s.quiet j := rfl
@[simp] theorem State.suspend_admits (i : Instr) (k : Nat) (x : Word) : (s.suspend i k).admits x = s.admits x := rfl
@[simp] theorem State.suspend_appCommands (i : Instr) (k : Nat) : (s.suspend i k).appCommands = s.appCommands := rfl

@[simp] theorem State.enter_ctx (h : Context) : (s.enter h).ctx = s.ctx := rfl
@[simp] theorem State.enter_cfg (h : Context) : (s.enter h).cfg = s.cfg := rfl
@[simp] theorem State.enter_ctl (h : Context) : (s.enter h).ctl = s.ctl := rfl
@[simp] theorem State.enter_clken (h : Context) : (s.enter h).clken = s.clken := rfl
@[simp] theorem State.enter_nvic (h : Context) : (s.enter h).nvic = s.nvic := rfl
@[simp] theorem State.enter_stack (h : Context) : (s.enter h).stack = h :: s.stack := rfl
@[simp] theorem State.enter_mid (h : Context) : (s.enter h).mid = s.mid.set [] h := rfl
@[simp] theorem State.enter_fault (h : Context) : (s.enter h).fault = s.fault := rfl
@[simp] theorem State.enter_refused (h : Context) : (s.enter h).refused = s.refused := rfl
@[simp] theorem State.enter_hist (h : Context) : (s.enter h).hist = s.hist := rfl
@[simp] theorem State.enter_mem (h : Context) : (s.enter h).mem = s.mem := rfl
@[simp] theorem State.enter_launch (h : Context) : (s.enter h).launch = s.launch := rfl
@[simp] theorem State.enter_draws (h : Context) : (s.enter h).draws = s.draws := rfl
@[simp] theorem State.enter_mainIn (h : Context) : (s.enter h).mainIn = s.mainIn := rfl
@[simp] theorem State.enter_pres (h : Context) : (s.enter h).pres = s.pres := rfl
@[simp] theorem State.enter_app (h : Context) : (s.enter h).app = s.app := rfl
@[simp] theorem State.enter_due (h : Context) : (s.enter h).due = s.due := rfl
@[simp] theorem State.enter_quiet (h : Context) (j : Nat) : (s.enter h).quiet j = s.quiet j := rfl
@[simp] theorem State.enter_admits (h : Context) (x : Word) : (s.enter h).admits x = s.admits x := rfl
@[simp] theorem State.enter_appCommands (h : Context) : (s.enter h).appCommands = s.appCommands := rfl

@[simp] theorem State.leave_ctx : s.leave.ctx = s.ctx := rfl
@[simp] theorem State.leave_cfg : s.leave.cfg = s.cfg := rfl
@[simp] theorem State.leave_ctl : s.leave.ctl = s.ctl := rfl
@[simp] theorem State.leave_clken : s.leave.clken = s.clken := rfl
@[simp] theorem State.leave_nvic : s.leave.nvic = s.nvic := rfl
@[simp] theorem State.leave_stack : s.leave.stack = s.stack.tail := rfl
@[simp] theorem State.leave_mid : s.leave.mid = s.mid.set [] s.top := rfl
@[simp] theorem State.leave_fault : s.leave.fault = s.fault := rfl
@[simp] theorem State.leave_refused : s.leave.refused = s.refused := rfl
@[simp] theorem State.leave_hist : s.leave.hist = s.hist := rfl
@[simp] theorem State.leave_mem : s.leave.mem = s.mem := rfl
@[simp] theorem State.leave_launch : s.leave.launch = s.launch := rfl
@[simp] theorem State.leave_draws : s.leave.draws = s.draws := rfl
@[simp] theorem State.leave_mainIn : s.leave.mainIn = s.mainIn := rfl
@[simp] theorem State.leave_pres : s.leave.pres = s.pres := rfl
@[simp] theorem State.leave_app : s.leave.app = s.app := rfl
@[simp] theorem State.leave_due : s.leave.due = s.due := rfl
@[simp] theorem State.leave_quiet (j : Nat) : s.leave.quiet j = s.quiet j := rfl
@[simp] theorem State.leave_admits (x : Word) : s.leave.admits x = s.admits x := rfl
@[simp] theorem State.leave_appCommands : s.leave.appCommands = s.appCommands := rfl

@[simp] theorem State.elapsed_ctx (k : Nat) : (s.elapsed k).ctx = s.ctx := rfl
@[simp] theorem State.elapsed_cfg (k : Nat) : (s.elapsed k).cfg = s.cfg := rfl
@[simp] theorem State.elapsed_ctl (k : Nat) : (s.elapsed k).ctl = s.ctl := rfl
@[simp] theorem State.elapsed_clken (k : Nat) : (s.elapsed k).clken = s.clken := rfl
@[simp] theorem State.elapsed_nvic (k : Nat) : (s.elapsed k).nvic = s.nvic := rfl
@[simp] theorem State.elapsed_stack (k : Nat) : (s.elapsed k).stack = s.stack := rfl
@[simp] theorem State.elapsed_mid (k : Nat) : (s.elapsed k).mid = s.mid := rfl
@[simp] theorem State.elapsed_fault (k : Nat) : (s.elapsed k).fault = s.fault := rfl
@[simp] theorem State.elapsed_refused (k : Nat) : (s.elapsed k).refused = s.refused := rfl
@[simp] theorem State.elapsed_hist (k : Nat) : (s.elapsed k).hist = s.hist := rfl
@[simp] theorem State.elapsed_mem (k : Nat) : (s.elapsed k).mem = s.mem := rfl
@[simp] theorem State.elapsed_launch (k : Nat) : (s.elapsed k).launch = s.launch := rfl
@[simp] theorem State.elapsed_draws (k : Nat) : (s.elapsed k).draws = s.draws := rfl
@[simp] theorem State.elapsed_mainIn (k : Nat) : (s.elapsed k).mainIn = s.mainIn := rfl
@[simp] theorem State.elapsed_pres (k : Nat) : (s.elapsed k).pres = afterSteps k s.pres := rfl
@[simp] theorem State.elapsed_app (k : Nat) : (s.elapsed k).app = s.app := rfl
@[simp] theorem State.elapsed_top (k : Nat) : (s.elapsed k).top = s.top := rfl
@[simp] theorem State.elapsed_frames (k : Nat) : (s.elapsed k).frames = s.frames := rfl
@[simp] theorem State.elapsed_admits (k : Nat) (x : Word) : (s.elapsed k).admits x = s.admits x := rfl
@[simp] theorem State.elapsed_appCommands (k : Nat) : (s.elapsed k).appCommands = s.appCommands := rfl

@[simp] theorem State.appTaken_ctx : s.appTaken.ctx = s.ctx := rfl
@[simp] theorem State.appTaken_cfg : s.appTaken.cfg = s.cfg := rfl
@[simp] theorem State.appTaken_ctl : s.appTaken.ctl = s.ctl := rfl
@[simp] theorem State.appTaken_clken : s.appTaken.clken = s.clken := rfl
@[simp] theorem State.appTaken_nvic : s.appTaken.nvic = s.nvic := rfl
@[simp] theorem State.appTaken_stack : s.appTaken.stack = s.stack := rfl
@[simp] theorem State.appTaken_mid : s.appTaken.mid = s.mid := rfl
@[simp] theorem State.appTaken_fault : s.appTaken.fault = s.fault := rfl
@[simp] theorem State.appTaken_refused : s.appTaken.refused = s.refused := rfl
@[simp] theorem State.appTaken_hist : s.appTaken.hist = s.hist := rfl
@[simp] theorem State.appTaken_mem : s.appTaken.mem = s.mem := rfl
@[simp] theorem State.appTaken_launch : s.appTaken.launch = s.launch := rfl
@[simp] theorem State.appTaken_draws : s.appTaken.draws = s.draws := rfl
@[simp] theorem State.appTaken_mainIn : s.appTaken.mainIn = s.mainIn := rfl
@[simp] theorem State.appTaken_pres : s.appTaken.pres = s.pres := rfl
@[simp] theorem State.appTaken_app : s.appTaken.app = s.app.tail := rfl
@[simp] theorem State.appTaken_top : s.appTaken.top = s.top := rfl
@[simp] theorem State.appTaken_frames : s.appTaken.frames = s.frames := rfl
@[simp] theorem State.appTaken_due : s.appTaken.due = s.due := rfl
@[simp] theorem State.appTaken_quiet (j : Nat) : s.appTaken.quiet j = s.quiet j := rfl
@[simp] theorem State.appTaken_admits (x : Word) : s.appTaken.admits x = s.admits x := rfl
@[simp] theorem State.appTaken_appCommands : s.appTaken.appCommands = s.app.tail.headD [] := rfl

@[simp] theorem State.enter_top (h : Context) : (s.enter h).top = h := rfl
@[simp] theorem State.memRead_fst (a : Word) : (s.memRead a).1 = Memory.read s.mem a.toNat := rfl
@[simp] theorem State.memRead_snd (a : Word) :
    (s.memRead a).2 = s.record (.memR a (Memory.read s.mem a.toNat)) := rfl
@[simp] theorem State.busDrr_fst : s.busDrr.1 = Config.drawByte s.draws := rfl
@[simp] theorem State.busDrr_snd : s.busDrr.2 = s.drawn.record (.busDrr (Config.drawByte s.draws)) := rfl
@[simp] theorem State.flagDraw_fst : s.flagDraw.1 = Config.drawFlag s.draws := rfl
@[simp] theorem State.flagDraw_snd : s.flagDraw.2 = s.drawn := rfl
@[simp] theorem State.elapse_eq : s.elapse = s.elapsed 1 := rfl

/-- Reading the entries of a context after they are written. -/
@[simp] theorem Mid.get_set_self (m : Mid) (fs : List Frame) (c : Context) : (m.set fs c).get c = fs := by
  cases c <;> rfl

/-- Writing the entries of one context leaves those of the others. -/
theorem Mid.get_set_of_ne (m : Mid) (fs : List Frame) {c d : Context} (h : d ≠ c) :
    (m.set fs c).get d = m.get d := by
  cases c <;> cases d <;> first | rfl | exact absurd rfl h

/-- The later of two writes to the entries of one context stays. -/
@[simp] theorem Mid.set_set_self (m : Mid) (fs gs : List Frame) (c : Context) :
    (m.set fs c).set gs c = m.set gs c := by
  cases c <;> rfl

/-- Writing back the entries a context already has changes nothing. -/
@[simp] theorem Mid.set_get_self (m : Mid) (c : Context) : m.set (m.get c) c = m := by
  cases c <;> rfl

/-- Interrupt exit undoes interrupt entry, but for the handler's own entries (spec 60 R214, R215). -/
theorem State.leave_enter (h : Context) : (s.enter h).leave = { s with mid := s.mid.set [] h } := by
  simp [State.leave, State.enter, State.top]

/-- The one-bit value as a choice. -/
@[simp] theorem bit_eq (b : Bool) : bit b = if b then 1 else 0 := rfl

@[simp] theorem TransferState.code_ready : TransferState.ready.code = 0 := rfl
@[simp] theorem TransferState.code_busyTx : TransferState.busyTx.code = 1 := rfl
@[simp] theorem TransferState.code_busyRx : TransferState.busyRx.code = 2 := rfl

/-! ## Time to the next presented word (log 1) -/

/-- Passing `j` and then `k` micro-steps is passing `j + k`. -/
@[simp] theorem afterSteps_afterSteps (j k : Nat) (l : List Presented) :
    afterSteps k (afterSteps j l) = afterSteps (j + k) l := by
  cases l <;> simp [afterSteps, Nat.sub_sub]

@[simp] theorem State.elapsed_elapsed (j k : Nat) : (s.elapsed j).elapsed k = s.elapsed (j + k) := by
  ext1 <;> simp

/-- A word is due after `k` micro-steps exactly when one falls due within them. -/
theorem dueNow_afterSteps (k : Nat) (l : List Presented) : dueNow (afterSteps k l) = !quietFor k l := by
  cases l with
  | nil => rfl
  | cons p ps =>
    rw [Bool.eq_iff_iff]
    simp [dueNow, afterSteps, quietFor]
    omega

@[simp] theorem State.elapsed_due (k : Nat) : (s.elapsed k).due = !s.quiet k := dueNow_afterSteps k s.pres

/-- Quiet for `k + j` micro-steps is quiet for `j` once `k` have passed. -/
theorem quietFor_afterSteps (j k : Nat) (l : List Presented) (h : quietFor k l = true) :
    quietFor j (afterSteps k l) = quietFor (k + j) l := by
  cases l with
  | nil => rfl
  | cons p ps =>
    simp only [quietFor, decide_eq_true_eq] at h
    rw [Bool.eq_iff_iff]
    simp only [afterSteps, quietFor, decide_eq_true_eq]
    omega

/-- Once `j` quiet micro-steps have passed, quiet for `k` more is quiet for `j + k` from the start. -/
@[simp] theorem State.elapsed_quiet {s : State} {j : Nat} (k : Nat) (h : s.quiet j = true) :
    (s.elapsed j).quiet k = s.quiet (j + k) :=
  quietFor_afterSteps k j s.pres h

/-- A word is due exactly when it is not quiet for no micro-step at all. -/
theorem State.due_eq (s : State) : s.due = !s.quiet 0 := by
  cases hp : s.pres with
  | nil => simp [State.due, State.quiet, dueNow, quietFor, hp]
  | cons p ps =>
    rw [Bool.eq_iff_iff]
    simp [State.due, State.quiet, dueNow, quietFor, hp]

/-- What is quiet for `k` micro-steps is quiet for fewer. -/
theorem State.quiet_mono {s : State} {j k : Nat} (hjk : j ≤ k) (h : s.quiet k = true) : s.quiet j = true := by
  cases hp : s.pres with
  | nil => simp [State.quiet, hp, quietFor]
  | cons p ps =>
    simp only [State.quiet, hp, quietFor, decide_eq_true_eq] at h ⊢
    omega

/-- Where it is quiet for some micro-steps, no word is due. -/
theorem State.due_of_quiet {s : State} {k : Nat} (h : s.quiet k = true) : s.due = false := by
  rw [State.due_eq, State.quiet_mono (Nat.zero_le k) h]; rfl

end Sys2Proof.Machine
end

