-- ==== Sys2Proof/Laws/Memory.lean ====
section
/-! SUPPORT. The buffer memory: read after write, and the canonical form every operation keeps (spec 20 R60,
R65; log 6). -/

namespace Sys2Proof.Machine

/-- A byte reads back as it was written (spec 20 R70). -/
@[simp] theorem Memory.read_write_self (m : Memory) (a : Nat) (v : Byte) (lo : Nat)
    (h : Memory.wfFrom lo m = true) : Memory.read (Memory.write m a v) a = v := by
  induction m generalizing lo with
  | nil => by_cases hv : v = Memory.unlisted <;> simp [Memory.write, Memory.read, hv]
  | cons e m ih =>
    obtain ⟨b, u⟩ := e
    simp only [Memory.wfFrom, Bool.and_eq_true, decide_eq_true_eq] at h
    have below : ∀ l (m : Memory), Memory.wfFrom l m = true → a < l → Memory.read m a = Memory.unlisted := by
      intro l m
      induction m generalizing l with
      | nil => intros; rfl
      | cons e m ih =>
        obtain ⟨c, x⟩ := e
        intro hw hl
        simp only [Memory.wfFrom, Bool.and_eq_true, decide_eq_true_eq] at hw
        have hne : c ≠ a := by omega
        simpa [Memory.read, hne] using ih (c + 1) hw.2 (by omega)
    by_cases hab : a < b
    · by_cases hv : v = Memory.unlisted
      · have hne : b ≠ a := by omega
        simp [Memory.write, hab, hv, Memory.read, hne, below (b + 1) m h.2 (by omega)]
      · simp [Memory.write, hab, hv, Memory.read]
    · by_cases hb : a = b
      · subst hb
        by_cases hv : v = Memory.unlisted
        · simp [Memory.write, hv, below (a + 1) m h.2 (by omega)]
        · simp [Memory.write, hv, Memory.read]
      · have hne : b ≠ a := fun e => hb e.symm
        simpa [Memory.write, hab, hb, Memory.read, hne] using ih (b + 1) h.2

/-- A write leaves every other byte as it was. -/
theorem Memory.read_write_ne (m : Memory) (a c : Nat) (v : Byte) (hc : c ≠ a) (lo : Nat)
    (h : Memory.wfFrom lo m = true) : Memory.read (Memory.write m a v) c = Memory.read m c := by
  induction m generalizing lo with
  | nil => by_cases hv : v = Memory.unlisted <;> simp [Memory.write, Memory.read, hv, hc.symm]
  | cons e m ih =>
    obtain ⟨b, u⟩ := e
    simp only [Memory.wfFrom, Bool.and_eq_true, decide_eq_true_eq] at h
    by_cases hab : a < b
    · by_cases hv : v = Memory.unlisted <;> simp [Memory.write, hab, hv, Memory.read, hc.symm]
    · by_cases hb : a = b
      · subst hb
        by_cases hv : v = Memory.unlisted
        · simp [Memory.write, hv, Memory.read, hc.symm]
        · simp [Memory.write, hv, Memory.read, hc.symm]
      · simp [Memory.write, hab, hb, Memory.read, ih (b + 1) h.2]

/-- A write keeps the canonical form from any bound at or below the address. -/
theorem Memory.wfFrom_write (m : Memory) (a : Nat) (v : Byte) (lo : Nat) (ha : a < 2 ^ 32) (hlo : lo ≤ a)
    (h : Memory.wfFrom lo m = true) : Memory.wfFrom lo (Memory.write m a v) = true := by
  induction m generalizing lo with
  | nil => by_cases hv : v = Memory.unlisted <;> simp_all [Memory.write, Memory.wfFrom]
  | cons e m ih =>
    obtain ⟨b, u⟩ := e
    simp only [Memory.wfFrom, Bool.and_eq_true, decide_eq_true_eq, bne_iff_ne, ne_eq] at h
    obtain ⟨⟨⟨hlb, hb32⟩, hu⟩, hm⟩ := h
    norm_num at ha hb32
    have raised : ∀ l (m : Memory), Memory.wfFrom (l + 1) m = true → Memory.wfFrom l m = true := by
      intro l m hm
      cases m with
      | nil => rfl
      | cons e m =>
        simp only [Memory.wfFrom, Bool.and_eq_true, decide_eq_true_eq] at hm ⊢
        exact ⟨⟨⟨by omega, hm.1.1.2⟩, hm.1.2⟩, hm.2⟩
    by_cases hab : a < b
    · by_cases hv : v = Memory.unlisted
      · simp [Memory.write, hab, hv, Memory.wfFrom, hlb, hb32, hu, hm]
      · simp [Memory.write, hab, hv, Memory.wfFrom, hlo, ha, hb32, hu, hm]
    · by_cases hb : a = b
      · subst hb
        by_cases hv : v = Memory.unlisted
        · have lower : ∀ d, Memory.wfFrom (lo + d) m = true → Memory.wfFrom lo m = true := by
            intro d
            induction d with
            | zero => exact id
            | succ d ihd => exact fun h => ihd (raised _ _ h)
          have hd : lo + (a + 1 - lo) = a + 1 := by omega
          simpa [Memory.write, hv] using lower (a + 1 - lo) (by rw [hd]; exact hm)
        · simp [Memory.write, hv, Memory.wfFrom, hlo, ha, hm]
      · simp [Memory.write, hab, hb, Memory.wfFrom, hlb, hb32, hu, ih (b + 1) (by omega) hm]

/-- Storing a byte at a 32-bit address keeps the canonical form. -/
theorem Memory.wf_write (m : Memory) (a : Word) (v : Byte) (h : Memory.wf m = true) :
    Memory.wf (Memory.write m a.toNat v) = true :=
  Memory.wfFrom_write m a.toNat v 0 a.isLt (Nat.zero_le _) h

/-- The memory at reset is in canonical form. -/
theorem Memory.wf_reset : Memory.wf State.reset.mem = true := rfl

end Sys2Proof.Machine
end

