-- ==== Sys2Proof/Laws/Operands.lean ====
section
/-! SUPPORT. One lemma for each operand computation and guard: what it says, once. -/

namespace Sys2Proof.Machine

/-- INIT finds the clock too slow exactly when it is 0 or below the threshold of the speed (spec 40 R112). -/
theorem clockTooSlow_iff (p : Nat) (speed : Speed) :
    clockTooSlow p speed = true ↔
      p = 0 ∨ (speed = .sm ∧ p < 2000000) ∨ (speed = .fm ∧ p < 4000000) := by
  cases speed <;>
    simp only [clockTooSlow, Bool.or_eq_true, decide_eq_true_eq] <;> simp [Config.pclkMinSm, Config.pclkMinFm]

/-- INIT does not find the clock too slow exactly from the threshold of the speed up (spec 40 R112). -/
theorem clockTooSlow_false_iff (p : Nat) (speed : Speed) :
    clockTooSlow p speed = false ↔ (if speed = .sm then 2000000 else 4000000) ≤ p := by
  rw [← Bool.not_eq_true, clockTooSlow_iff]
  cases speed <;> simp <;> omega

/-- The guard of a gated command that writes no context lets it through exactly with the clock on (40 R122). -/
theorem State.clockGuard_eq_none (s : State) : s.clockGuard = none ↔ s.clken = true := by
  cases h : s.clken <;> simp [State.clockGuard, h]

/-- The guards of a context-writing command let it through exactly with the clock on and no context below it
mid-rule (40 R122, 60 R212). -/
theorem State.contextGuard_eq_none (s : State) :
    s.contextGuard = none ↔ s.clken = true ∧ s.stack.tail.any s.midRule = false := by
  cases h : s.clken <;> cases h' : s.stack.tail.any s.midRule <;> simp [State.contextGuard, h, h']

end Sys2Proof.Machine
end

