-- ==== Sys2Proof/Laws/Run.lean ====
section
/-! SUPPORT. What running a rule can do, said once (spec 00 R9): each kind of micro-step, and the principle by
which a property of states that the micro-steps and the bookkeeping keep is kept by `exec`. -/

namespace Sys2Proof.Machine

section Steps

variable (i : Instr) (micro : Nat → State → Micro) (rest : Nat → State → Answer) (n k : Nat) (s : State)

/-- A command that has ended returns to its issuer. -/
theorem ruleEnded_command (h : isCommand i = true) : ruleEnded i s = .next s := by simp [ruleEnded, h]

/-- A handler whose rule has ended exits, with no word due (spec 60 R215). -/
theorem ruleEnded_handler (h : isCommand i = false) (hd : s.due = false) : ruleEnded i s = .next s.leave.elapse := by
  simp [ruleEnded, h, hd]

/-- Past its last micro-step a rule has ended. -/
theorem proceed_ended (h : lastStep i < k) : proceed i rest k s = ruleEnded i (s.elapsed 1) := by
  simp [proceed, h]

/-- A rule with micro-steps left goes on when no word falls due. -/
theorem proceed_quiet (h : k ≤ lastStep i) (hq : s.quiet 1 = true) :
    proceed i rest k s = rest k (s.elapsed 1) := by
  simp [proceed, Nat.not_lt.mpr h, hq]

/-- A rule with micro-steps left waits in `mid` when a word falls due (spec 60 R210). -/
theorem proceed_due (h : k ≤ lastStep i) (hq : s.quiet 1 = false) :
    proceed i rest k s = .next ((s.elapsed 1).suspend i k) := by
  simp [proceed, Nat.not_lt.mpr h, hq]

/-- A callback in which APP issues nothing returns at once (spec 60 R216). -/
theorem emitted_silent (ev : AppEvent) (h : s.appCommands = []) :
    emitted i rest ev k s = proceed i rest k (s.record (.cb ev)).appTaken := by
  simp [emitted, h]

/-- A callback in which APP issues commands stays open in `mid` (spec 60 R216). -/
theorem emitted_open (ev : AppEvent) (w : Word) (ws : List Word) (h : s.appCommands = w :: ws) :
    emitted i rest ev k s =
      .next (((s.record (.cb ev)).appTaken.suspend i k).setFrames
        (.callback ev (w :: ws) :: .rule i k :: s.frames)) := by
  have hf : ((s.record (.cb ev)).appTaken.suspend i k).frames = .rule i k :: s.frames := by
    simp only [State.suspend, State.frames, State.setFrames, State.record, State.appTaken, State.top,
      Mid.get_set_self]
  simp only [emitted, h, hf]

/-- One round of running a rule. -/
theorem runRule_succ :
    runRule i micro (n + 1) k s =
      match micro k s with
      | .go k1 s1 => proceed i (runRule i micro n) k1 s1
      | .done s1 => ruleEnded i s1.elapse
      | .emit ev k1 s1 => emitted i (runRule i micro n) ev k1 s1
      | .raise c => .next ((s.suspend i k).raise c)
      | .stuck a => stuckAt i k a s := rfl

end Steps

/-- The guard of a command's line `0:`: none for CLK, IRQEN and IRQPRI (spec 40 R122), both guards for a
context-writing command (60 R212), the clock guard for the others. -/
def guardOf (i : Instr) (s : State) : Option FaultCode :=
  match i with
  | .clk _ | .irqen _ _ | .irqpri _ _ => none
  | .init _ _ _ _ | .deinit | .mtx _ _ _ _ | .mrx _ _ _ _ | .closetx | .closerx => s.contextGuard
  | _ => s.clockGuard

/-- The interrupt line an event or error word comes on (spec 60 R207). -/
def lineOfInput : Instr → Line
  | .err _ => .er
  | _ => .ev

/-- The gate of an event or error word (spec 42 R140, 44 R175). -/
def gateOf (i : Instr) (s : State) : Bool :=
  match i with
  | .err _ => s.errorGate
  | .evRxne _ _ | .evTxe _ _ => s.eventGate true
  | _ => s.eventGate false

/-- Every command is its guard and then its micro-steps. -/
theorem exec_command (i : Instr) (s : State) (h : isCommand i = true) :
    exec i s = runCommand i (guardOf i s) (microOf i) s := by
  cases i <;> first | rfl | cases h

/-- Every event and error word is its gate and then its micro-steps in its handler. -/
theorem exec_handler (i : Instr) (s : State) (h : isCommand i = false) :
    exec i s = runHandler i (lineOfInput i) (gateOf i s) (microOf i) s := by
  cases i <;> first | rfl | cases h

/-- What a micro-step leaves, where it leaves a state, has property `P`. -/
def Micro.Leaves (P : State → Prop) : Micro → Prop
  | .go _ t => P t
  | .done t => P t
  | .emit _ _ t => P t
  | .raise _ => True
  | .stuck _ => True

/-- A property of states that the bookkeeping of running a rule keeps: time passing, a rule set aside, a fault
mark set, a callback opened, a handler's entry and exit. -/
structure Kept (P : State → Prop) : Prop where
  elapsed : ∀ s k, P s → P (s.elapsed k)
  frames : ∀ s fs, P s → P (s.setFrames fs)
  raise : ∀ s c, P s → P (s.raise c)
  callback : ∀ s ev, P s → P (s.record (.cb ev)).appTaken
  enter : ∀ s h, P s → P (s.enter h)
  leave : ∀ s, P s → P s.leave

section Keeps

variable {P : State → Prop} {i : Instr} {micro : Nat → State → Micro} {rest : Nat → State → Answer}
  {k : Nat} {s t : State}

theorem ruleEnded_keeps (hP : Kept P) (hs : P s) (h : ruleEnded i s = .next t) : P t := by
  unfold ruleEnded at h
  split at h
  · cases h; exact hs
  · cases h; exact hP.elapsed _ 1 (hP.leave s hs)

theorem proceed_keeps (hP : Kept P) (hrest : ∀ k s t, P s → rest k s = .next t → P t) (hs : P s)
    (h : proceed i rest k s = .next t) : P t := by
  unfold proceed at h
  split at h
  · exact ruleEnded_keeps hP (hP.elapsed s 1 hs) h
  · split at h
    · cases h; exact hP.frames _ _ (hP.elapsed s 1 hs)
    · exact hrest _ _ _ (hP.elapsed s 1 hs) h

/-- Whatever a rule's micro-steps and the bookkeeping keep, running the rule keeps. -/
theorem runRule_keeps (hP : Kept P) (hmicro : ∀ k s, P s → (micro k s).Leaves P) :
    ∀ (n k : Nat) (s t : State), P s → runRule i micro n k s = .next t → P t := by
  intro n
  induction n with
  | zero =>
    intro k s t hs h
    cases h; exact hP.frames s _ hs
  | succ n ih =>
    intro k s t hs h
    have hm := hmicro k s hs
    rw [runRule_succ] at h
    split at h
    · next k1 s1 e => rw [e] at hm; exact proceed_keeps hP ih hm h
    · next s1 e => rw [e] at hm; exact ruleEnded_keeps hP (hP.elapsed s1 1 hm) h
    · next ev k1 s1 e =>
      rw [e] at hm
      unfold emitted at h
      split at h
      · exact proceed_keeps hP ih (hP.callback s1 ev hm) h
      · cases h; exact hP.frames _ _ (hP.frames _ _ (hP.callback s1 ev hm))
    · cases h; exact hP.raise _ _ (hP.frames s _ hs)
    · unfold stuckAt at h
      split at h
      · cases h
      · cases h; exact hP.elapsed _ 1 (hP.frames s _ hs)

theorem runCommand_keeps {guard : Option FaultCode} (hP : Kept P)
    (hmicro : ∀ k s, P s → (micro k s).Leaves P) (hs : P s)
    (h : runCommand i guard micro s = .next t) : P t := by
  unfold runCommand at h
  split at h
  · cases h; exact hP.raise s _ hs
  · exact runRule_keeps hP hmicro _ _ _ _ hs h

theorem runHandler_keeps {l : Line} {gate : Bool} (hP : Kept P)
    (hmicro : ∀ k s, P s → (micro k s).Leaves P) (hs : P s)
    (h : runHandler i l gate micro s = .next t) : P t := by
  unfold runHandler at h
  split at h
  · split at h
    · cases h; exact hP.frames _ _ (hP.enter s _ hs)
    · exact runRule_keeps hP hmicro _ _ _ _ (hP.enter s _ hs) h
  · cases h; exact hs

/-- `exec` runs the micro-steps of its input, so whatever those and the bookkeeping keep, it keeps. -/
theorem exec_keeps (hP : Kept P) (hmicro : ∀ k s, P s → (microOf i k s).Leaves P) (hs : P s)
    (h : exec i s = .next t) : P t := by
  cases hc : isCommand i with
  | true => exact runCommand_keeps hP hmicro hs ((exec_command i s hc).symm.trans h)
  | false => exact runHandler_keeps hP hmicro hs ((exec_handler i s hc).symm.trans h)

/-- A rule resumed from `mid` keeps what its micro-steps and the bookkeeping keep. -/
theorem resume_keeps (hP : Kept P) (hmicro : ∀ k s, P s → (microOf i k s).Leaves P) (hs : P s)
    (h : resume i k s = .next t) : P t :=
  runRule_keeps hP hmicro _ _ _ _ hs h

/-- A rule whose callback returns keeps what its micro-steps and the bookkeeping keep. -/
theorem callbackReturn_keeps (hP : Kept P) (hmicro : ∀ k s, P s → (microOf i k s).Leaves P) (hs : P s)
    (h : callbackReturn i k s = .next t) : P t :=
  proceed_keeps hP (runRule_keeps hP hmicro _) hs h

end Keeps

end Sys2Proof.Machine
end

