-- ==== Sys2Proof/Machine/Asm.lean ====
section
/-! DEFINITION. The text syntax of inputs (spec 30 R95): one input a line, a mnemonic and then `name=value`
operands separated by commas. Text is a list of characters; an omitted operand is 0. What R95 does not say of a line
is the model's choice (log 22). -/

namespace Sys2Proof

/-- The pieces of a text between the occurrences of a character. -/
def splitChar (c : Char) : List Char → List (List Char)
  | [] => [[]]
  | x :: xs =>
    if x = c then [] :: splitChar c xs
    else match splitChar c xs with
      | [] => [[x]]
      | p :: ps => (x :: p) :: ps

/-- A text without the spaces at its ends. -/
def trimText (t : List Char) : List Char := ((t.dropWhile (· == ' ')).reverse.dropWhile (· == ' ')).reverse

/-- The value of a digit in a base of at most 16. R95 does not say whether a value of a line may hold `_` between digit
groups, as the spec's own hex literals may (00 R7), such as `buf=0x2000_0000`, nor in which case hex digits stand.
DESIGN CHOICE (log 22): `_` is no digit, so such a value spells nothing, and both cases are taken. -/
def digitValue (base : Nat) (c : Char) : Option Nat :=
  let n := c.toNat
  let v := if 48 ≤ n ∧ n ≤ 57 then n - 48 else if 97 ≤ n ∧ n ≤ 102 then n - 87 else if 65 ≤ n ∧ n ≤ 70 then n - 55 else 16
  if v < base then some v else none

/-- The number a non-empty run of digits writes. -/
def digitsValue (base : Nat) : List Char → Nat → Option Nat
  | [], acc => some acc
  | c :: cs, acc => match digitValue base c with
    | some d => digitsValue base cs (acc * base + d)
    | none => none

/-- The named constants (spec 30 R95). -/
def namedConstant (t : List Char) : Option Nat :=
  if t = "SM".toList ∨ t = "2:1".toList ∨ t = "EV".toList then some 0
  else if t = "FM".toList ∨ t = "16:9".toList ∨ t = "ER".toList then some 1
  else none

/-- A value: a named constant, a hex number or a decimal number (spec 30 R95). R95 does not say what a named constant
means in the place of another operand than its own, such as `dev=SM`. DESIGN CHOICE (log 22): its number, in every
operand. -/
def textValue (t : List Char) : Option Nat :=
  match namedConstant t with
  | some v => some v
  | none => match t with
    | '0' :: 'x' :: c :: cs => digitsValue 16 (c :: cs) 0
    | c :: cs => digitsValue 10 (c :: cs) 0
    | [] => none

/-- The value of an error flag's name in an error word (spec 30 R85, R95). -/
def errorName (t : List Char) : Option Nat :=
  if t = "BERR".toList then some 1
  else if t = "ARLO".toList then some 2
  else if t = "AF".toList then some 4
  else if t = "OVR".toList then some 8
  else if t = "TIMEOUT".toList then some 16
  else none

/-- The set of flags written `name|name|...`. -/
def errorNames : List (List Char) → Option (BitVec 5)
  | [] => some 0
  | t :: ts => match errorName (trimText t), errorNames ts with
    | some v, some f => some (BitVec.ofNat 5 v ||| f)
    | _, _ => none

/-- One operand: its name and the text of its value. -/
abbrev Operand := List Char × List Char

/-- The operands of a line, `none` where one is not `name=value`. -/
def textOperands : List (List Char) → Option (List Operand)
  | [] => some []
  | t :: ts => match splitChar '=' (trimText t), textOperands ts with
    | [n, v], some os => some ((trimText n, trimText v) :: os)
    | _, _ => none

/-- Whether every operand's name is among those the mnemonic takes. A line with another name spells nothing. DESIGN
CHOICE (log 22). -/
def operandsAre (names : List String) (os : List Operand) : Bool :=
  os.all fun o => names.any fun n => n.toList == o.1

/-- The value of an operand, 0 where it is omitted (spec 30 R95), `none` where it is no value or needs more than `n`
bits. R95 says neither what a repeated operand means, such as `dev=1, dev=2`, nor what a named constant means in another
operand's place, such as `dev=SM`, nor what too large a value means. DESIGN CHOICE (log 22): the first of the repeated
ones, the constant's number, and no input. -/
def operandValue (os : List Operand) (name : String) (n : Nat) : Option Nat :=
  match os.find? fun o => o.1 == name.toList with
  | none => some 0
  | some o => match textValue o.2 with
    | some v => if v < 2 ^ n then some v else none
    | none => none

/-- An operand as a bit vector. -/
def operandBits (os : List Operand) (name : String) (n : Nat) : Option (BitVec n) :=
  (operandValue os name n).map (BitVec.ofNat n)

/-- An operand as a truth value. -/
def operandBool (os : List Operand) (name : String) : Option Bool :=
  (operandValue os name 1).map (· == 1)

/-- A one-operand `en` command. -/
def asmEn (mk : Bool → Instr) (os : List Operand) : Option Instr :=
  if operandsAre ["en"] os then (operandBool os "en").map mk else none

/-- A command with no operands. -/
def asmPlain (i : Instr) (os : List Operand) : Option Instr := if os.isEmpty then some i else none

/-- MTX or MRX. -/
def asmTransfer (mk : BitVec 7 → Bool → Word → Word → Instr) (os : List Operand) : Option Instr :=
  if operandsAre ["dev", "sr", "buf", "len"] os then
    match operandBits os "dev" 7, operandBool os "sr", operandBits os "buf" 32, operandBits os "len" 32 with
    | some dev, some sr, some buf, some len => some (mk dev sr buf len)
    | _, _, _, _ => none
  else none

/-- An event of spec 30 R84. -/
def asmEvent (mk : Bool → Bool → Instr) (os : List Operand) : Option Instr :=
  if operandsAre ["msl", "tra"] os then
    match operandBool os "msl", operandBool os "tra" with
    | some msl, some tra => some (mk msl tra)
    | _, _ => none
  else none

/-- INIT. -/
def asmInit (os : List Operand) : Option Instr :=
  if operandsAre ["own", "speed", "duty", "ack"] os then
    match operandBits os "own" 7, operandBool os "speed", operandBool os "duty", operandBool os "ack" with
    | some own, some speed, some duty, some ack => some (.init own (speedOf speed) (dutyOf duty) ack)
    | _, _, _, _ => none
  else none

/-- IRQEN. -/
def asmIrqen (os : List Operand) : Option Instr :=
  if operandsAre ["line", "en"] os then
    match operandBool os "line", operandBool os "en" with
    | some line, some en => some (.irqen (lineOf line) en)
    | _, _ => none
  else none

/-- IRQPRI. -/
def asmIrqpri (os : List Operand) : Option Instr :=
  if operandsAre ["line", "prio"] os then
    match operandBool os "line", operandBits os "prio" 8 with
    | some line, some prio => some (.irqpri (lineOf line) prio)
    | _, _ => none
  else none

/-- ERR: its flags are names joined by `|` (spec 30 R95); none given is the empty set. R95 does not say whether the set
may be written as a number, such as `flags=0x05` or `flags=0`, nor what a repeated `flags` or a repeated name means.
DESIGN CHOICE (log 22): a number and a repeated `flags` spell nothing, and a repeated name counts once. -/
def asmErr (os : List Operand) : Option Instr :=
  match os with
  | [] => some (.err 0)
  | [(n, v)] => if n = "flags".toList then (errorNames (splitChar '|' v)).map Instr.err else none
  | _ => none

/-- The input a mnemonic and its operands spell (spec 30 R82, R83, R85). A FLAG index that names no flag is assembled too:
its word is refused at decode (30 R91, 40 R121; 95 V-C19). -/
def asmInput (mnemonic : List Char) (os : List Operand) : Option Instr :=
  if mnemonic = "CLK".toList then asmEn .clk os
  else if mnemonic = "INIT".toList then asmInit os
  else if mnemonic = "DEINIT".toList then asmPlain .deinit os
  else if mnemonic = "PE".toList then asmEn .pe os
  else if mnemonic = "GC".toList then asmEn .gc os
  else if mnemonic = "CBEN".toList then asmEn .cben os
  else if mnemonic = "IRQEN".toList then asmIrqen os
  else if mnemonic = "IRQPRI".toList then asmIrqpri os
  else if mnemonic = "MTX".toList then asmTransfer .mtx os
  else if mnemonic = "MRX".toList then asmTransfer .mrx os
  else if mnemonic = "CLOSETX".toList then asmPlain .closetx os
  else if mnemonic = "CLOSERX".toList then asmPlain .closerx os
  else if mnemonic = "STX".toList then
    (if operandsAre ["value"] os then (operandBits os "value" 8).map Instr.stx else none)
  else if mnemonic = "SRX".toList then asmPlain .srx os
  else if mnemonic = "FLAG".toList then
    (if operandsAre ["index"] os then (operandBits os "index" 5).map Instr.flag else none)
  else if mnemonic = "ERR".toList then asmErr os
  else none

/-- The event a name after `EV` and its operands spell (spec 30 R84). -/
def asmEventInput (name : List Char) (os : List Operand) : Option Instr :=
  if name = "SB".toList then asmEvent .evSb os
  else if name = "ADDR".toList then asmEvent .evAddr os
  else if name = "BTF".toList then asmEvent .evBtf os
  else if name = "STOPF".toList then asmEvent .evStopf os
  else if name = "RXNE".toList then asmEvent .evRxne os
  else if name = "TXE".toList then asmEvent .evTxe os
  else none

/-- The operands in the text after the mnemonic. -/
def operandText (t : List Char) : Option (List Operand) :=
  if trimText t = [] then some [] else textOperands (splitChar ',' t)

/-- The text up to the first space, and the text after it. -/
def firstWord (t : List Char) : List Char × List Char :=
  (t.takeWhile (· != ' '), trimText (t.dropWhile (· != ' ')))

/-- One line of text as an input (spec 30 R95). -/
def parseLine (line : List Char) : Option Instr :=
  let (m, rest) := firstWord (trimText line)
  if m = "EV".toList then
    (let (name, rest') := firstWord rest
     match operandText rest' with
     | some os => asmEventInput name os
     | none => none)
  else match operandText rest with
    | some os => asmInput m os
    | none => none

/-- One line of text as its words (spec 30 R95). -/
def assemble (line : List Char) : Option (List Word) := (parseLine line).map encode

end Sys2Proof
end

