-- ==== Sys2Proof/Safety.lean ====
section
/-! DEFINITION. What claims are stated in: a run that ends well (spec 60 R228), the boot orders (70 R244,
R245), and the shape every step keeps (10 R50, R51, 60 R211, 20 R60). -/

namespace Sys2Proof.Machine

/-- History records of one context, in order (spec 00 R10). -/
def tagged (c : Context) (actions : List Action) : List Record := actions.map (Record.mk c)

/-- The first word `w` alone spells the input `i`, whatever words follow (spec 30 R94). -/
def Spells (w : Word) (i : Instr) : Prop := ∀ rest, decode (w :: rest) = .instr i rest

/-- An answer with its next state changed by `f`; a stop stays the stop it is. -/
def mapNext (f : State → State) : Answer → Answer
  | .next s => .next (f s)
  | .fault r => .fault r
  | .refused r => .refused r

/-- A run of rule `i` from `s` ends in `t`, for as long as one step takes it: the rule begun, resumed at a micro-step
after an interruption or a wait at entry (spec 60 R215), or gone on with when its callback returns (60 R216). -/
def Runs (i : Instr) (s t : State) : Prop :=
  exec i s = .next t ∨ (∃ k, resume i k s = .next t) ∨ ∃ k, callbackReturn i k s = .next t

/-- The reserved bits of `w[23:0]` of a command, by its opcode (spec 30 R83); `none` for an opcode that is not
assigned (30 R82). -/
def reservedBits : Nat → Option Word
  | 0x01 | 0x04 | 0x05 | 0x06 => some 0x00FFFFFE
  | 0x02 => some 0x00FFF880
  | 0x03 | 0x12 | 0x13 | 0x19 => some 0x00FFFFFF
  | 0x07 => some 0x00FFFFFC
  | 0x08 => some 0x00FF00FD
  | 0x10 | 0x11 | 0x18 => some 0x00FFFF00
  | 0x20 => some 0x00FFFFE0
  | _ => none

/-- Whether a class-00 word is illegal (spec 30 R91): its opcode is not assigned, a reserved bit is 1, or it is
a FLAG word whose index names no flag. -/
def illegalCommandWord (w : Word) : Bool :=
  match reservedBits (opcodeOf w) with
  | none => true
  | some m => (w &&& m != 0) || (opcodeOf w == 0x20 && !flagIndexLegal (field w 0 5))

/-- The event word's rule can start: its gate holds and EVH may run above the running context (spec 42 R140). -/
def eventStarts (s : State) (buffered : Bool) : Prop := s.eventGate buffered = true ∧ s.mayPreempt .ev = true

/-- The error word's rule can start: its gate holds and ERH may run above the running context (spec 44 R175). -/
def errorStarts (s : State) : Prop := s.errorGate = true ∧ s.mayPreempt .er = true

/-- The records one set error flag makes (spec 44 R175, R176). -/
def errorReport (flags : BitVec 5) (n : Nat) : List Action :=
  match errorOfBit n with
  | some (flag, ev) => if flags.getLsbD n then [.busClr flag, .cb ev] else []
  | none => []

/-- The records of one error word, in flag-bit order (spec 44 R175). -/
def errorReports (flags : BitVec 5) : List Action :=
  errorReport flags 0 ++ errorReport flags 1 ++ errorReport flags 2 ++ errorReport flags 3 ++ errorReport flags 4

/-- The records of the flags from bit `k` up, in flag-bit order (spec 44 R175). -/
def errorReportsFrom (flags : BitVec 5) (k : Nat) : List Action :=
  ((List.range 5).drop k).flatMap (errorReport flags)

/-- How many of the flags from bit `k` up are set, which is how many callbacks they make (spec 44 R178). -/
def errorCallbacksFrom (flags : BitVec 5) (k : Nat) : Nat :=
  ((List.range 5).drop k).countP fun n => flags.getLsbD n

/-- A callback in which APP has commands to issue, opened by handler `h` (spec 60 R216): `Cb(ev)` is recorded, APP's
next list of commands is taken, and `mid[H]` holds the callback above the emitting rule, which goes on at micro-step
`k` (log 12). -/
def callbackOpened (h : Context) (ev : AppEvent) (cmds : List Word) (i : Instr) (k : Nat) (s : State) : State :=
  { s with
    mid := s.mid.set [.callback ev cmds, .rule i k] h
    app := s.app.tail
    hist := s.hist ++ tagged h [.cb ev] }

/-- The context-writing commands (spec 60 R212). -/
def contextWriting : Instr → Bool
  | .init _ _ _ _ | .deinit | .mtx _ _ _ _ | .mrx _ _ _ _ | .closetx | .closerx => true
  | _ => false

/-- The commands the clock gates: all but CLK, IRQEN and IRQPRI (spec 40 R122). -/
def clockGated : Instr → Bool
  | .clk _ | .irqen _ _ | .irqpri _ _ => false
  | i => isCommand i

/-- A run ends well here (spec 60 R228). A stuck context stays on the stack, so `stack = [MAIN]` says that
nothing is stuck. -/
def endsWell (s : State) : Bool :=
  s.mainIn.isEmpty && (s.stack == [.main]) && !s.midRule .main && !s.midRule .evh && !s.midRule .erh &&
    s.fault.isNone && s.refused.isNone

/-- The master boot order (spec 70 R244), less the pin configuration, which is outside the block. -/
def masterBoot (own : BitVec 7) (speed : Speed) (duty : Duty) (ack : Bool) : List Instr :=
  [.clk true, .init own speed duty ack, .irqen .ev true, .irqen .er true, .pe true]

/-- The slave boot order (spec 70 R245): the master's, then the callback enable. -/
def slaveBoot (own : BitVec 7) (speed : Speed) (duty : Duty) (ack : Bool) : List Instr :=
  masterBoot own speed duty ack ++ [.cben true]

/-- The stacks that occur (spec 10 R50, 60 R211): MAIN at the bottom, each handler at most once above it. -/
def stackLegal (stack : List Context) : Bool :=
  [[.main], [.evh, .main], [.erh, .main], [.erh, .evh, .main], [.evh, .erh, .main]].contains stack

/-- The rules a context may have begun in its own right (spec 60 R220, R221). -/
def ownRule : Context → Instr → Bool
  | .main, i => isCommand i
  | .evh, .evSb _ _ | .evh, .evAddr _ _ | .evh, .evBtf _ _ | .evh, .evStopf _ _ | .evh, .evRxne _ _ => true
  | .evh, .evTxe _ _ => true
  | .erh, .err _ => true
  | _, _ => false

/-- What a context may have begun and not finished (spec 10 R51, 60 R216): nothing; a rule of its own; an open
callback of that rule; a command of APP inside the callback. Commands never emit, so there is no more. -/
def framesLegal (c : Context) : List Frame → Bool
  | [] => true
  | [.rule i _] => ownRule c i
  | [.callback _ _, .rule i _] => ownRule c i && !isCommand i
  | [.rule j _, .callback _ _, .rule i _] => isCommand j && ownRule c i && !isCommand i
  | _ => false

/-- A context off the stack has nothing begun (spec 60 R215). -/
def offStackEmpty (s : State) (c : Context) : Bool := s.stack.contains c || (s.mid.get c).isEmpty

/-- The shape every step keeps: a legal stack, legal entries in each context, none off the stack, and the
buffer memory in canonical form. -/
def Shape (s : State) : Prop :=
  stackLegal s.stack = true ∧
    (∀ c, framesLegal c (s.mid.get c) = true ∧ offStackEmpty s c = true) ∧ Memory.wf s.mem = true

end Sys2Proof.Machine
end

