-- ==== Sys2Proof/Certificates/Slice0/Obligations.lean ====
section
/-! DEFINITION. The statements for the provers, from the numbered rules of the spec. Hypotheses are about the
state and the operands alone; `quiet k` says that PERIPH presents no word up to the `k`-th moment from now
(60 R210), and `elapsed k` that `k` moments have passed for the words still to be presented: one for each
micro-step, each handler's exit and each refused input (log 1, 9, 19). -/

open Sys2Proof Sys2Proof.Machine

/-! ## Encoding (spec 30) -/

/-- Decoding the words of a well-formed input gives that input back, with every operand at every value its
field admits, and leaves the words after it (30 R81 to R85). -/
def Obligations.DecodeInvertsEncode : Prop :=
  ∀ (i : Instr) (rest : List Word), i.wf = true → decode (encode i ++ rest) = .instr i rest

/-- Words the spec itself writes out (30 R95, 95 sections 2 and 3) decode to the inputs it gives for them, and the
four examples of the text syntax assemble to the words the spec gives (30 R95). -/
def Obligations.SpecWordsDecode : Prop :=
  decode [0x02000461] = .instr (.init 0x61 .sm .d2 true) [] ∧
  decode [0x08001F02] = .instr (.irqpri .er 0x1F) [] ∧
  decode [0x07000003] = .instr (.irqen .er true) [] ∧
  decode [0x10000068, 0x20000000, 0x00000002] = .instr (.mtx 0x68 false 0x20000000 2) [] ∧
  decode [0x11000050, 0x20000100, 0x00000001] = .instr (.mrx 0x50 false 0x20000100 1) [] ∧
  decode [0x12000000] = .instr .closetx [] ∧
  decode [0x18000077] = .instr (.stx 0x77) [] ∧
  decode [0x20000011] = .instr (.flag 17) [] ∧
  decode [0x41000200] = .instr (.evAddr false true) [] ∧
  decode [0x47FFFFFF] = .instr (.evTxe true true) [] ∧
  decode [0x80FFFFE1] = .instr (.err 1) [] ∧
  assemble "MTX dev=0x68, sr=0, buf=0x20000000, len=2".toList = some [0x10000068, 0x20000000, 0x00000002] ∧
  assemble "INIT own=0x61, speed=SM, duty=2:1, ack=1".toList = some [0x02000461] ∧
  assemble "EV TXE msl=1, tra=1".toList = some [0x47000300] ∧
  assemble "ERR flags=BERR|AF".toList = some [0x80000005]

/-- The length of an input is told by its first word alone (30 R94): a class-00 word with opcode 0x10 or 0x11
takes exactly the two words after it, BUF then LEN; every other word stands alone. -/
def Obligations.FirstWordGivesLength : Prop :=
  (∀ (w buf len : Word) (ws : List Word), portClass w = .command → opcodeOf w = 0x10 ∨ opcodeOf w = 0x11 →
    (∃ dev sr, decode (w :: buf :: len :: ws) = .instr (.mtx dev sr buf len) ws ∨
      decode (w :: buf :: len :: ws) = .instr (.mrx dev sr buf len) ws) ∨
    ∃ why, decode (w :: buf :: len :: ws) = .illegal why ws) ∧
  (∀ (w : Word) (ws : List Word), ¬(portClass w = .command ∧ (opcodeOf w = 0x10 ∨ opcodeOf w = 0x11)) →
    (∃ i, decode (w :: ws) = .instr i ws) ∨ decode (w :: ws) = .ignored ws ∨
      ∃ why, decode (w :: ws) = .illegal why ws)

/-- A class-00 word is illegal exactly when its opcode is not assigned, a reserved bit of it is 1, or it is a
FLAG word whose index names no flag (30 R91). An illegal input of MAIN, or of APP in an open callback, sets the
refusal mark and changes nothing else (30 R91, 60 R202); that its words are then taken, that a
moment passes and that the run goes on is the model's choice (log 9). -/
def Obligations.IllegalCommandsAreRefused : Prop :=
  (∀ (w buf len : Word) (ws : List Word), portClass w = .command →
    ((∃ why rest, decode (w :: buf :: len :: ws) = .illegal why rest) ↔ illegalCommandWord w = true)) ∧
  ∀ (s : State) (w : Word) (ws rest : List Word) (why : DecodeError),
    s.fault = none → s.due = false → decode (w :: ws) = .illegal why rest →
    (s.frames = [] → s.top = .main → s.mainIn = w :: ws →
      step s = .next { s.elapsed 1 with mainIn := rest, refused := some .illegalInput }) ∧
    (∀ ev fs, s.frames = .callback ev (w :: ws) :: fs →
      step s = .next { s.elapsed 1 with
        mid := s.mid.set (.callback ev rest :: fs) s.top, refused := some .illegalInput })

/-- A class-11 word spells nothing, and sets the refusal mark and nothing else, whichever port it comes on
(30 R86). That the word is then taken, that a moment passes and that the run goes on is the model's choice (log 9). -/
def Obligations.ClassElevenSpellsNothing : Prop :=
  ∀ (s : State) (w : Word) (ws : List Word), portClass w = .reserved → s.fault = none →
    decode (w :: ws) = .illegal .reservedClass ws ∧
    (s.due = false → s.frames = [] → s.top = .main → s.mainIn = w :: ws →
      step s = .next { s.elapsed 1 with mainIn := ws, refused := some .illegalInput }) ∧
    (∀ ev fs, s.due = false → s.frames = .callback ev (w :: ws) :: fs →
      step s = .next { s.elapsed 1 with
        mid := s.mid.set (.callback ev ws :: fs) s.top, refused := some .illegalInput }) ∧
    (∀ ps, s.pres = ⟨0, w⟩ :: ps → step s = .next { s with pres := afterSteps 1 ps, refused := some .illegalInput })

/-- A reserved event code or error opcode changes nothing and records nothing (30 R92), gated as SB and ERR are (42
R149, 44 R175, 60 R207): with its gate false it is discarded; with its gate true its handler enters and exits, and
where another word is presented at once the handler is still on the stack, with nothing to run. That the handler has
no micro-step, so that only its exit takes a moment, is the model's choice (log 18). The ignored bits of an event
word and of an error word change nothing (30 R92). -/
def Obligations.ReservedHardwareWordsDoNothing : Prop :=
  (∀ (s : State) (w : Word) (ps : List Presented) (l : Line), s.fault = none → s.pres = ⟨0, w⟩ :: ps →
    (portClass w = .event ∧ ¬(opcodeOf w ∈ [0x00, 0x01, 0x02, 0x04, 0x06, 0x07]) ∧ l = .ev) ∨
      (portClass w = .error ∧ opcodeOf w ≠ 0 ∧ l = .er) →
    let taken := { s with pres := ps }
    (s.lineGate l = false ∨ s.mayPreempt l = false → step s = .next taken) ∧
    (s.lineGate l = true → s.mayPreempt l = true → taken.due = false →
      step s = .next { taken.elapsed 1 with mid := s.mid.set [] (handlerOf l) }) ∧
    (s.lineGate l = true → s.mayPreempt l = true → taken.due = true →
      step s = .next { taken with stack := handlerOf l :: s.stack, mid := s.mid.set [] (handlerOf l) })) ∧
  (∀ s : State, s.lineGate .ev = (s.clken && s.nvic.enEv && s.ctl.itevten) ∧
    s.lineGate .er = (s.clken && s.nvic.enEr && s.ctl.iterren)) ∧
  (∀ (v w : Word) (ws : List Word), portClass v = .event → v &&& 0xFF000300 = w &&& 0xFF000300 →
    decode (v :: ws) = decode (w :: ws)) ∧
  (∀ (v w : Word) (ws : List Word), portClass v = .error → v &&& 0xFF00001F = w &&& 0xFF00001F →
    decode (v :: ws) = decode (w :: ws))

/-- The address byte is the 7-bit address shifted by one with the direction bit below it, 1 for a read, with the
four values the spec works out (30 R87). -/
def Obligations.AddressByteValue : Prop :=
  (∀ (dev : BitVec 7) (read : Bool),
    (addressByte dev read).toNat = dev.toNat * 2 + (if read then 1 else 0)) ∧
  addressByte 0x68 false = 0xD0 ∧ addressByte 0x68 true = 0xD1 ∧
  addressByte 0x00 false = 0x00 ∧ addressByte 0x7F true = 0xFF

/-! ## The step relation (spec 60 R229) -/

/-- A step runs the decoded input: MAIN's next command, the event or error word PERIPH presents now, and APP's next
command in an open callback, each in the state its words are taken from (60 R216, R229 moves 1, 3, 4 and 6). -/
def Obligations.StepRunsTheDecodedInput : Prop :=
  ∀ (s : State) (w : Word) (ws rest : List Word) (i : Instr), s.fault = none →
    (isCommand i = true → s.due = false → decode (w :: ws) = .instr i rest →
      (s.frames = [] → s.top = .main → s.mainIn = w :: ws → step s = exec i { s with mainIn := rest }) ∧
      (∀ ev fs, s.frames = .callback ev (w :: ws) :: fs →
        step s = exec i { s with mid := s.mid.set (.callback ev rest :: fs) s.top })) ∧
    (∀ ps, isCommand i = false → s.pres = ⟨0, w⟩ :: ps → decode [w] = .instr i rest →
      step s = exec i { s with pres := ps })

/-- A rule waiting in the running context resumes at its next micro-step (60 R215, R229 move 2); APP's return
ends the emitting micro-step (60 R216); a handler with nothing left exits (60 R215, R229 move 5). -/
def Obligations.StepRunsWhatIsUnfinished : Prop :=
  ∀ (s : State), s.fault = none → s.due = false →
    (∀ i k fs, s.frames = .rule i k :: fs →
      step s = resume i k { s with mid := s.mid.set fs s.top }) ∧
    (∀ ev i k fs, s.frames = .callback ev [] :: .rule i k :: fs →
      step s = callbackReturn i k { s with mid := s.mid.set fs s.top }) ∧
    (s.frames = [] → s.top ≠ .main →
      step s = .next { s.elapsed 1 with stack := s.stack.tail, mid := s.mid.set [] s.top })

/-- The ports are separate: a command word PERIPH presents, and an event or error word MAIN or APP issues, have no
move (60 R221). That the step then stops with a refusal is the model's choice, and so is that an illegal class-00 word
of PERIPH has no move, rather than being refused by 30 R91 (log 11). -/
def Obligations.WordsOnTheWrongPortHaveNoMove : Prop :=
  ∀ (s : State), s.fault = none →
    (∀ w ps, s.pres = ⟨0, w⟩ :: ps → portClass w = .command → step s = .refused .wrongPort) ∧
    (∀ w ws, portClass w = .event ∨ portClass w = .error → s.due = false →
      (s.frames = [] → s.top = .main → s.mainIn = w :: ws → step s = .refused .wrongPort) ∧
      (∀ ev fs, s.frames = .callback ev (w :: ws) :: fs → step s = .refused .wrongPort))

/-! ## Reset and the marks -/

/-- Every field the spec gives a reset value for has it at power-on (10 R56). The launch parameters, the draw
counter and the inputs of the environment are the model's (log 2, 3, 5) and are not stated. -/
def Obligations.ResetValues : Prop :=
  State.reset.ctx = ⟨.ready, 0, 0, 0, false⟩ ∧
  State.reset.cfg = ⟨.sm, .d2, false, 0⟩ ∧
  State.reset.ctl = ⟨false, false, false, false, false, false, 0, .sm, .d2, 0, 0, 2⟩ ∧
  State.reset.clken = false ∧
  State.reset.nvic = ⟨false, false, 0, 0⟩ ∧
  State.reset.stack = [.main] ∧
  (∀ c, State.reset.mid.get c = []) ∧
  State.reset.fault = none ∧ State.reset.refused = none ∧ State.reset.hist = []

/-- The marks are none at reset, and no step clears one: a refusal mark stays, and a state with a fault mark has
no next state at all (10 R52, 60 R201). -/
def Obligations.MarksAreNeverCleared : Prop :=
  State.reset.fault = none ∧ State.reset.refused = none ∧
  (∀ (s t : State) (r : RefusalReason), step s = .next t → s.refused = some r → t.refused = some r) ∧
  (∀ (s : State) (c : FaultCode), s.fault = some c → step s = .fault (.marked c)) ∧
  (∀ (i : Instr) (s t : State), exec i s = .next t →
    (s.fault.isSome = true → t.fault.isSome = true) ∧ ∀ r, s.refused = some r → t.refused = some r)

/-! ## Configuration, lifecycle and plumbing (spec 40) -/

/-- While CLKEN is 0 every command but CLK, IRQEN and IRQPRI raises CLOCK_OFF and has no effect, and those three
raise nothing, whatever CLKEN holds (40 R122). -/
def Obligations.ClockGateFaults : Prop :=
  (∀ (i : Instr) (s : State), clockGated i = true → s.clken = false →
    exec i s = .next { s with fault := some .clockOff }) ∧
  ∀ (i : Instr) (s : State), isCommand i = true → clockGated i = false →
    ∃ t, exec i s = .next t ∧ t.fault = s.fault

/-- A context-writing command begun while a context below the running one is mid-rule raises CONTEXT_RACE and
has no effect (60 R212). -/
def Obligations.ContextRaceFaults : Prop :=
  ∀ (i : Instr) (s : State), contextWriting i = true → s.clken = true → s.stack.tail.any s.midRule = true →
    exec i s = .next { s with fault := some .contextRace }

/-- CLK writes CLKEN, recorded, and nothing else, whatever CLKEN holds (40 R110). -/
def Obligations.ClkWritesTheGate : Prop :=
  Spells 0x01000000 (.clk false) ∧ Spells 0x01000001 (.clk true) ∧
  ∀ (en : Bool) (s : State),
    exec (.clk en) s = .next { s.elapsed 1 with
      clken := en, hist := s.hist ++ tagged s.top [.ctl .clken (if en then 1 else 0)] }

/-- INIT with a bus clock fast enough programs the peripheral, in the order of the rule, and replies 0 (40 R111,
R113, R114). The timing values are the OPEN functions applied to the clock. -/
def Obligations.InitProgramsThePeripheral : Prop :=
  ∀ (own : BitVec 7) (speed : Speed) (duty : Duty) (ack : Bool) (s : State),
    s.clken = true → s.stack.tail.any s.midRule = false → s.ctx.state = .ready →
    (if speed = .sm then 2000000 else 4000000) ≤ s.launch.pclkHz →
    exec (.init own speed duty ack) s = .next { s.elapsed 1 with
      cfg := ⟨speed, duty, ack, own⟩
      ctl := { s.ctl with
        freq := Config.freqFn s.launch.pclkHz, ccr := Config.ccrFn s.launch.pclkHz speed duty, fs := speed,
        duty := duty, trise := Config.triseFn s.launch.pclkHz speed, oar := own, ack := ack }
      hist := s.hist ++ tagged s.top
        [.ctl .freq (Config.freqFn s.launch.pclkHz), .ctl .ccr (Config.ccrFn s.launch.pclkHz speed duty),
         .ctl .fs speed.value, .ctl .duty duty.value, .ctl .trise (Config.triseFn s.launch.pclkHz speed),
         .ctl .oar own.toNat, .ctl .ack (if ack then 1 else 0), .reply .init 0] }

/-- INIT replies 1 exactly when the bus clock is zero or below the threshold of the speed asked for, and then
writes no field (40 R112). -/
def Obligations.InitRejectsASlowClock : Prop :=
  ∀ (own : BitVec 7) (speed : Speed) (duty : Duty) (ack : Bool) (s : State),
    s.clken = true → s.stack.tail.any s.midRule = false → s.ctx.state = .ready →
    (s.launch.pclkHz = 0 ∨ (speed = .sm ∧ s.launch.pclkHz < 2000000) ∨ (speed = .fm ∧ s.launch.pclkHz < 4000000) →
      exec (.init own speed duty ack) s = .next { s.elapsed 1 with
        hist := s.hist ++ tagged s.top [.reply .init 1] }) ∧
    (∀ t, exec (.init own speed duty ack) s = .next t → ⟨s.top, .reply .init 1⟩ ∈ t.hist.drop s.hist.length →
      s.launch.pclkHz = 0 ∨ (speed = .sm ∧ s.launch.pclkHz < 2000000) ∨ (speed = .fm ∧ s.launch.pclkHz < 4000000))

/-- INIT while a transfer is in flight raises INIT_BUSY, with no other effect (40 R111). That the faulting rule stays in
`mid` at micro-step 1 is the model's choice (log 8). -/
def Obligations.InitWhileBusyFaults : Prop :=
  ∀ (own : BitVec 7) (speed : Speed) (duty : Duty) (ack : Bool) (s : State),
    s.clken = true → s.stack.tail.any s.midRule = false → s.ctx.state ≠ .ready →
    exec (.init own speed duty ack) s = .next { s with
      fault := some .initBusy, mid := s.mid.set (.rule (.init own speed duty ack) 1 :: s.frames) s.top }

/-- DEINIT puts every `Ctl`, `cfg` and `ctx` field at its reset value with one record, and leaves CLKEN, the
interrupt controller, the stack, the marks and memory (40 R115, 70 R242, R243). -/
def Obligations.DeinitResetsThePeripheral : Prop :=
  Spells 0x03000000 .deinit ∧
  ∀ (s : State), s.clken = true → s.stack.tail.any s.midRule = false →
    exec .deinit s = .next { s.elapsed 1 with
      ctx := ⟨.ready, 0, 0, 0, false⟩
      cfg := ⟨.sm, .d2, false, 0⟩
      ctl := ⟨false, false, false, false, false, false, 0, .sm, .d2, 0, 0, 2⟩
      hist := s.hist ++ tagged s.top [.ctl .reset 0] }

/-- PE writes `Ctl(PE)`, GC writes `Ctl(ENGC)`, and CBEN writes its operand into the three source enables, each
recorded, and nothing else (40 R116, R117, R118). -/
def Obligations.PeGcAndCbenWriteTheirFields : Prop :=
  Spells 0x04000000 (.pe false) ∧ Spells 0x04000001 (.pe true) ∧
  Spells 0x05000000 (.gc false) ∧ Spells 0x05000001 (.gc true) ∧
  Spells 0x06000000 (.cben false) ∧ Spells 0x06000001 (.cben true) ∧
  ∀ (en : Bool) (s : State), s.clken = true →
    exec (.pe en) s = .next { s.elapsed 1 with
      ctl := { s.ctl with pe := en }, hist := s.hist ++ tagged s.top [.ctl .pe (if en then 1 else 0)] } ∧
    exec (.gc en) s = .next { s.elapsed 1 with
      ctl := { s.ctl with engc := en }, hist := s.hist ++ tagged s.top [.ctl .engc (if en then 1 else 0)] } ∧
    exec (.cben en) s = .next { s.elapsed 1 with
      ctl := { s.ctl with itevten := en, itbufen := en, iterren := en }
      hist := s.hist ++ tagged s.top
        [.ctl .itevten (if en then 1 else 0), .ctl .itbufen (if en then 1 else 0),
         .ctl .iterren (if en then 1 else 0)] }

/-- IRQEN writes the enable of its line, recorded, and nothing else, whatever CLKEN holds (40 R119). -/
def Obligations.IrqenWritesTheLine : Prop :=
  Spells 0x07000000 (.irqen .ev false) ∧ Spells 0x07000001 (.irqen .ev true) ∧
  Spells 0x07000002 (.irqen .er false) ∧ Spells 0x07000003 (.irqen .er true) ∧
  ∀ (en : Bool) (s : State),
    exec (.irqen .ev en) s = .next { s.elapsed 1 with
      nvic := { s.nvic with enEv := en }
      hist := s.hist ++ tagged s.top [.ctl (.nvicEn .ev) (if en then 1 else 0)] } ∧
    exec (.irqen .er en) s = .next { s.elapsed 1 with
      nvic := { s.nvic with enEr := en }
      hist := s.hist ++ tagged s.top [.ctl (.nvicEn .er) (if en then 1 else 0)] }

/-- IRQPRI keeps the top PRIO_BITS bits of the priority it is given, for its line, recorded, and writes nothing
else, whatever CLKEN holds; with four bits, 0x25 is kept as 0x20 (40 R120). -/
def Obligations.IrqpriKeepsTheImplementedBits : Prop :=
  Spells 0x08002500 (.irqpri .ev 0x25) ∧ keptPrio 4 0x25 = 0x20 ∧
  (∀ (bits : Nat) (prio : Byte) (j : Nat), bits ≤ 8 → j < 8 →
    (keptPrio bits prio).getLsbD j = (decide (8 - bits ≤ j) && prio.getLsbD j)) ∧
  ∀ (prio : Byte) (s : State),
    exec (.irqpri .ev prio) s = .next { s.elapsed 1 with
      nvic := { s.nvic with prioEv := keptPrio s.launch.prioBits prio }
      hist := s.hist ++ tagged s.top [.ctl (.nvicPrio .ev) (keptPrio s.launch.prioBits prio).toNat] } ∧
    exec (.irqpri .er prio) s = .next { s.elapsed 1 with
      nvic := { s.nvic with prioEr := keptPrio s.launch.prioBits prio }
      hist := s.hist ++ tagged s.top [.ctl (.nvicPrio .er) (keptPrio s.launch.prioBits prio).toNat] }

/-- FLAG replies a free value of one bit for each of the fourteen flags, writes no field and has no other effect
(40 R121). The value is `Config.drawFlag` at the draw counter; nothing is known of it (log 3). -/
def Obligations.FlagRepliesADraw : Prop :=
  Spells 0x20000011 (.flag 17) ∧
  ∀ (index : BitVec 5) (s : State), flagIndexLegal index = true → s.clken = true →
    exec (.flag index) s = .next { s.elapsed 1 with
      draws := s.draws + 1
      hist := s.hist ++ tagged s.top [.reply .flag (Config.drawFlag s.draws).toNat] }

/-! ## Master initiation (spec 41) -/

/-- An accepted MTX records the Transfer Context, enters BUSY_TX, enables the three sources, generates a START and
replies 0, in that order; a zero length is accepted (41 R130). -/
def Obligations.MtxStartsASend : Prop :=
  ∀ (dev : BitVec 7) (sr : Bool) (buf len : Word) (s : State),
    s.clken = true → s.stack.tail.any s.midRule = false → s.ctx.state = .ready → s.quiet 4 = true →
    exec (.mtx dev sr buf len) s = .next { s.elapsed 5 with
      ctx := ⟨.busyTx, buf, len, dev, sr⟩
      ctl := { s.ctl with itevten := true, itbufen := true, iterren := true }
      hist := s.hist ++ tagged s.top
        [.ctl .itevten 1, .ctl .itbufen 1, .ctl .iterren 1, .busStart, .reply .mtx 0] }

/-- An accepted MRX does the same with BUSY_RX for a length that is not zero, and raises RX_ZERO_LENGTH for a
length of zero (41 R131). That the faulting rule stays in `mid` at micro-step 1 is the model's choice (log 8). -/
def Obligations.MrxStartsAReceive : Prop :=
  ∀ (dev : BitVec 7) (sr : Bool) (buf len : Word) (s : State),
    s.clken = true → s.stack.tail.any s.midRule = false → s.ctx.state = .ready →
    (len ≠ 0 → s.quiet 4 = true →
      exec (.mrx dev sr buf len) s = .next { s.elapsed 5 with
        ctx := ⟨.busyRx, buf, len, dev, sr⟩
        ctl := { s.ctl with itevten := true, itbufen := true, iterren := true }
        hist := s.hist ++ tagged s.top
          [.ctl .itevten 1, .ctl .itbufen 1, .ctl .iterren 1, .busStart, .reply .mrx 0] }) ∧
    (len = 0 → exec (.mrx dev sr buf len) s = .next { s with
      fault := some .rxZeroLength, mid := s.mid.set (.rule (.mrx dev sr buf len) 1 :: s.frames) s.top })

/-- An MTX or MRX while a transfer is in flight replies the busy state, 1 for BUSY_TX and 2 for BUSY_RX, and has
no other effect, whatever its operands are, a zero length among them (41 R132). -/
def Obligations.BusyInitiationIsRejected : Prop :=
  ∀ (dev : BitVec 7) (sr : Bool) (buf len : Word) (s : State),
    s.clken = true → s.stack.tail.any s.midRule = false → s.ctx.state ≠ .ready →
    exec (.mtx dev sr buf len) s = .next { s.elapsed 1 with
      hist := s.hist ++ tagged s.top [.reply .mtx (if s.ctx.state = .busyTx then 1 else 2)] } ∧
    exec (.mrx dev sr buf len) s = .next { s.elapsed 1 with
      hist := s.hist ++ tagged s.top [.reply .mrx (if s.ctx.state = .busyTx then 1 else 2)] }

/-- MTX and MRX leave `Ctl(ACK)` and the configuration as they are, accepted or not, in one piece or resumed after
an interruption: neither is among the fields that they write (41 R130, R131, R135), and INIT and DEINIT alone write
the configuration (10 R29). -/
def Obligations.InitiationInheritsAck : Prop :=
  ∀ (dev : BitVec 7) (sr : Bool) (buf len : Word) (s t : State),
    Runs (.mtx dev sr buf len) s t ∨ Runs (.mrx dev sr buf len) s t →
    t.ctl.ack = s.ctl.ack ∧ t.cfg = s.cfg

/-- A word that falls due between two micro-steps of an accepted MTX leaves it waiting at the next micro-step,
with what the earlier ones wrote and nothing of the later ones (41 R130, 60 R210, 70 R249). -/
def Obligations.MtxWaitsWhereAWordFallsDue : Prop :=
  ∀ (dev : BitVec 7) (sr : Bool) (buf len : Word) (s : State) (k : Nat),
    s.clken = true → s.stack.tail.any s.midRule = false → s.ctx.state = .ready → 1 ≤ k → k ≤ 4 →
    s.quiet (k - 1) = true → s.quiet k = false →
    exec (.mtx dev sr buf len) s = .next { s.elapsed k with
      mid := s.mid.set (.rule (.mtx dev sr buf len) (k + 1) :: s.frames) s.top
      ctx := if k = 1 then s.ctx else ⟨if k = 2 then .ready else .busyTx, buf, len, dev, sr⟩
      ctl := if k = 4 then { s.ctl with itevten := true, itbufen := true, iterren := true } else s.ctl
      hist := if k = 4 then s.hist ++ tagged s.top [.ctl .itevten 1, .ctl .itbufen 1, .ctl .iterren 1]
        else s.hist }

/-- A rule cut short between two of its micro-steps ends, once it goes on, as it would have ended in one piece (00 R9,
60 R215, R216): a command, or a handler's rule at its entry or later, cut by a word that comes to nothing and then
resumed; and a handler's rule cut by the first callback in which APP has commands, when that callback returns with
nothing done in it. -/
def Obligations.InterruptedRuleEndsTheSame : Prop :=
  (∀ (i : Instr) (s t u : State) (w : Word) (j k : Nat),
    isCommand i = true → exec i { s with pres := [⟨j, w⟩] } = .next t → t.frames = .rule i k :: s.frames →
    t.fault = none → exec i { s with pres := [] } = .next u →
    resume i k { t with pres := [], mid := t.mid.set s.frames t.top } = .next u) ∧
  (∀ (i : Instr) (s t u : State) (h : Context) (w : Word) (j k : Nat),
    isCommand i = false → exec i { s with pres := [⟨j, w⟩] } = .next t → t.stack = h :: s.stack →
    t.frames = [.rule i k] → t.fault = none → exec i { s with pres := [] } = .next u →
    resume i k { t with pres := [], mid := t.mid.set [] t.top } = .next u) ∧
  (∀ (i : Instr) (s t u : State) (h : Context) (ev : AppEvent) (silent after : List (List Word)) (w : Word)
      (ws : List Word) (k : Nat),
    isCommand i = false → (∀ c ∈ silent, c = []) →
    exec i { s with pres := [], app := silent ++ (w :: ws) :: after } = .next t → t.stack = h :: s.stack →
    t.frames = [.callback ev (w :: ws), .rule i k] →
    exec i { s with pres := [], app := silent ++ [] :: after } = .next u →
    callbackReturn i k { t with mid := t.mid.set [] t.top } = .next u)

/-! ## Close (spec 45) -/

/-- CLOSETX and CLOSERX run the four Close steps in every state, with identical effects: the event sources off,
the count 0, ACK restored to the configured default, the state READY; `Ctl(ITERREN)`, `ctx.buf`, `ctx.dev` and
`ctx.sr` stay (45 R185 to R188). Where a guard stops one it stops the other in the same way, and each micro-step of
one is that of the other, in whatever state an interruption leaves. -/
def Obligations.CloseRunsTheCloseSteps : Prop :=
  Spells 0x12000000 .closetx ∧ Spells 0x13000000 .closerx ∧
  (∀ (s : State), s.clken = false ∨ s.stack.tail.any s.midRule = true → exec .closetx s = exec .closerx s) ∧
  (∀ (k : Nat) (s : State), microOf .closetx k s = microOf .closerx k s) ∧
  ∀ (s : State), s.clken = true → s.stack.tail.any s.midRule = false → s.quiet 3 = true →
    let closed := { s.elapsed 4 with
      ctx := { s.ctx with rem := 0, state := .ready }
      ctl := { s.ctl with itevten := false, itbufen := false, ack := s.cfg.ack }
      hist := s.hist ++ tagged s.top
        [.ctl .itevten 0, .ctl .itbufen 0, .ctl .ack (if s.cfg.ack then 1 else 0)] }
    exec .closetx s = .next closed ∧ exec .closerx s = .next closed

/-- A second Close leaves every field as the first left it and makes the same three records again (45 R189). -/
def Obligations.CloseTwiceIsCloseOnce : Prop :=
  ∀ (i j : Instr) (s t : State), (i = .closetx ∨ i = .closerx) → (j = .closetx ∨ j = .closerx) →
    s.clken = true → s.stack.tail.any s.midRule = false → s.quiet 7 = true → exec i s = .next t →
    exec j t = .next { t.elapsed 4 with hist := t.hist ++ t.hist.drop s.hist.length }

/-- After a Close no event word is taken until an enable opens the event sources again, while the gate of the
error line is as it was (45 R185, 70 R254). -/
def Obligations.CloseEndsEventDelivery : Prop :=
  ∀ (i : Instr) (s t : State), (i = .closetx ∨ i = .closerx) →
    s.clken = true → s.stack.tail.any s.midRule = false → s.quiet 3 = true → exec i s = .next t →
    (∀ j, isCommand j = false → (∀ f, j ≠ .err f) → exec j t = .next t) ∧ t.errorGate = s.errorGate

/-! ## Slave byte exchange (spec 43) -/

/-- STX writes its byte to the data register and nothing else, whatever the state and the role (43 R170). -/
def Obligations.StxWritesTheDataRegister : Prop :=
  Spells 0x18000077 (.stx 0x77) ∧
  ∀ (value : Byte) (s : State), s.clken = true →
    exec (.stx value) s = .next { s.elapsed 1 with hist := s.hist ++ tagged s.top [.busDrw value] }

/-- SRX reads the data register, a free value, and replies it, whatever the state and the role (43 R171). The value
is `Config.drawByte` at the draw counter; nothing is known of it (log 3). -/
def Obligations.SrxRepliesADraw : Prop :=
  Spells 0x19000000 .srx ∧
  ∀ (s : State), s.clken = true →
    exec .srx s = .next { s.elapsed 1 with
      draws := s.draws + 1
      hist := s.hist ++ tagged s.top
        [.busDrr (Config.drawByte s.draws), .reply .srx (Config.drawByte s.draws).toNat] }

/-! ## Event rules (spec 42) -/

/-- An event or error word PERIPH presents while its gate is false, or while its handler may not start above the
running context, is discarded: nothing is recorded or changed (42 R140, 44 R175, 60 R208, R210). -/
def Obligations.UngatedWordsAreDiscarded : Prop :=
  ∀ (s : State),
    (∀ msl tra, (s.clken && s.nvic.enEv && s.ctl.itevten) = false ∨ s.mayPreempt .ev = false →
      exec (.evSb msl tra) s = .next s ∧ exec (.evAddr msl tra) s = .next s ∧
      exec (.evBtf msl tra) s = .next s ∧ exec (.evStopf msl tra) s = .next s) ∧
    (∀ msl tra, (s.clken && s.nvic.enEv && s.ctl.itevten && s.ctl.itbufen) = false ∨ s.mayPreempt .ev = false →
      exec (.evRxne msl tra) s = .next s ∧ exec (.evTxe msl tra) s = .next s) ∧
    (∀ flags, (s.clken && s.nvic.enEr && s.ctl.iterren) = false ∨ s.mayPreempt .er = false →
      exec (.err flags) s = .next s)

/-- A handler is never above itself, MAIN never keeps one out, and a running handler keeps out the other unless
that one's priority number is strictly lower (60 R210). -/
def Obligations.PreemptionNeedsStrictPriority : Prop :=
  ∀ (s : State) (l : Line),
    (handlerOf l ∈ s.stack → s.mayPreempt l = false) ∧
    (handlerOf l ∉ s.stack → s.top = .main → s.mayPreempt l = true) ∧
    (.erh ∉ s.stack → s.top = .evh →
      (s.mayPreempt .er = true ↔ s.nvic.prioEr.toNat < s.nvic.prioEv.toNat)) ∧
    (.evh ∉ s.stack → s.top = .erh →
      (s.mayPreempt .ev = true ↔ s.nvic.prioEv.toNat < s.nvic.prioEr.toNat))

/-- Where another word is presented at once, a handler that starts waits at its first micro-step: its context is
pushed, `mid[H]` is its rule at micro-step 1, the preempted context keeps its own, and nothing else is saved, written
or recorded (60 R214; the moment of entry is the model's, log 19). -/
def Obligations.HandlerEntrySavesNothing : Prop :=
  ∀ (msl tra : Bool) (flags : BitVec 5) (s : State), s.due = true →
    (∀ i ∈ [Instr.evSb msl tra, .evAddr msl tra, .evBtf msl tra, .evStopf msl tra], eventStarts s false →
      exec i s = .next { s with stack := .evh :: s.stack, mid := s.mid.set [.rule i 1] .evh }) ∧
    (∀ i ∈ [Instr.evRxne msl tra, .evTxe msl tra], eventStarts s true →
      exec i s = .next { s with stack := .evh :: s.stack, mid := s.mid.set [.rule i 1] .evh }) ∧
    (errorStarts s →
      exec (.err flags) s = .next { s with stack := .erh :: s.stack, mid := s.mid.set [.rule (.err flags) 1] .erh })

/-- SB writes the address byte to the data register, with the direction bit of the transfer, reading neither role
bit; in READY it does nothing. The handler has exited (42 R141). -/
def Obligations.SbWritesTheAddressByte : Prop :=
  ∀ (msl tra : Bool) (s : State), eventStarts s false → s.quiet 1 = true →
    exec (.evSb msl tra) s = .next { s.elapsed 2 with
      mid := s.mid.set [] .evh
      hist := s.hist ++ tagged .evh (match s.ctx.state with
        | .busyTx => [.busDrw (addressByte s.ctx.dev false)]
        | .busyRx => [.busDrw (addressByte s.ctx.dev true)]
        | .ready => []) }

/-- ADDR in master role: for a receive of exactly one byte ACK is disabled and then the flag is cleared, in that
order; otherwise only the flag is cleared (42 R142, 70 R247). -/
def Obligations.AddrDisablesAckBeforeTheClear : Prop :=
  ∀ (tra : Bool) (s : State), eventStarts s false → s.quiet 2 = true →
    (s.ctx.state = .busyRx ∧ s.ctx.rem = 1 →
      exec (.evAddr true tra) s = .next { s.elapsed 3 with
        mid := s.mid.set [] .evh
        ctl := { s.ctl with ack := false }
        hist := s.hist ++ tagged .evh [.ctl .ack 0, .busClr .addr] }) ∧
    (¬(s.ctx.state = .busyRx ∧ s.ctx.rem = 1) →
      exec (.evAddr true tra) s = .next { s.elapsed 3 with
        mid := s.mid.set [] .evh
        hist := s.hist ++ tagged .evh [.busClr .addr] })

/-- ADDR and STOPF in slave role clear their flag and then emit ADDR_MATCH and STOP, and change nothing else;
STOPF in master role only clears its flag. Stated for an APP that issues nothing (42 R142, R144). -/
def Obligations.AddrAndStopfClearTheirFlag : Prop :=
  ∀ (tra : Bool) (s : State), eventStarts s false → s.quiet 2 = true →
    (s.appCommands = [] →
      exec (.evAddr false tra) s = .next { s.elapsed 3 with
        mid := s.mid.set [] .evh, app := s.app.tail
        hist := s.hist ++ tagged .evh [.busClr .addr, .cb .addrMatch] } ∧
      exec (.evStopf false tra) s = .next { s.elapsed 3 with
        mid := s.mid.set [] .evh, app := s.app.tail
        hist := s.hist ++ tagged .evh [.busClr .stopf, .cb .stop] }) ∧
    exec (.evStopf true tra) s = .next { s.elapsed 3 with
      mid := s.mid.set [] .evh
      hist := s.hist ++ tagged .evh [.busClr .stopf] }

/-- BTF of a master send with nothing left stops unless a repeated start was requested, closes, and emits
TX_CMPLT, in that order; the state is READY. Stated for an APP that issues nothing (42 R143, R147). -/
def Obligations.BtfCompletesASend : Prop :=
  ∀ (tra : Bool) (s : State), eventStarts s false → s.quiet 6 = true → s.appCommands = [] →
    s.ctx.state = .busyTx → s.ctx.rem = 0 →
    exec (.evBtf true tra) s = .next { s.elapsed 7 with
      mid := s.mid.set [] .evh, app := s.app.tail
      ctx := { s.ctx with state := .ready }
      ctl := { s.ctl with itevten := false, itbufen := false, ack := s.cfg.ack }
      hist := s.hist ++ tagged .evh ((if s.ctx.sr then [] else [.busStop]) ++
        [.ctl .itevten 0, .ctl .itbufen 0, .ctl .ack (if s.cfg.ack then 1 else 0), .cb .txCmplt]) }

/-- RXNE in master role with two or more bytes left disables ACK when two remain, before the read, reads the data
register, stores the byte at the buffer address, and moves the address and the count on (42 R145, 70 R248). -/
def Obligations.RxneStoresAByte : Prop :=
  ∀ (tra : Bool) (s : State), eventStarts s true → s.quiet 2 = true →
    s.ctx.state = .busyRx → 2 ≤ s.ctx.rem.toNat → s.admits s.ctx.buf = true →
    exec (.evRxne true tra) s = .next { s.elapsed 3 with
      mid := s.mid.set [] .evh
      ctx := { s.ctx with buf := s.ctx.buf + 1, rem := s.ctx.rem - 1 }
      ctl := if s.ctx.rem = 2 then { s.ctl with ack := false } else s.ctl
      mem := Memory.write s.mem s.ctx.buf.toNat (Config.drawByte s.draws)
      draws := s.draws + 1
      hist := s.hist ++ tagged .evh ((if s.ctx.rem = 2 then [.ctl .ack 0] else []) ++
        [.busDrr (Config.drawByte s.draws), .memW s.ctx.buf (Config.drawByte s.draws)]) }

/-- RXNE taking the last byte stores it, stops unless a repeated start was requested, closes, and emits RX_CMPLT,
in that order; the state is READY. Stated for an APP that issues nothing (42 R145, R147). -/
def Obligations.RxneCompletesAReceive : Prop :=
  ∀ (tra : Bool) (s : State), eventStarts s true → s.quiet 7 = true → s.appCommands = [] →
    s.ctx.state = .busyRx → s.ctx.rem = 1 → s.admits s.ctx.buf = true →
    exec (.evRxne true tra) s = .next { s.elapsed 8 with
      mid := s.mid.set [] .evh, app := s.app.tail
      ctx := { s.ctx with state := .ready, buf := s.ctx.buf + 1, rem := 0 }
      ctl := { s.ctl with itevten := false, itbufen := false, ack := s.cfg.ack }
      mem := Memory.write s.mem s.ctx.buf.toNat (Config.drawByte s.draws)
      draws := s.draws + 1
      hist := s.hist ++ tagged .evh ([.busDrr (Config.drawByte s.draws), .memW s.ctx.buf (Config.drawByte s.draws)] ++
        (if s.ctx.sr then [] else [.busStop]) ++
        [.ctl .itevten 0, .ctl .itbufen 0, .ctl .ack (if s.cfg.ack then 1 else 0), .cb .rxCmplt]) }

/-- RXNE in BUSY_RX with no byte left raises RX_UNDERFLOW in its handler, which has entered, with no effect but the
mark (42 R145, 60 R214). That the handler stays on the stack with its rule in `mid` at micro-step 1 is the model's
choice (log 8). -/
def Obligations.RxneUnderflowFaults : Prop :=
  ∀ (tra : Bool) (s : State), eventStarts s true → s.due = false → s.ctx.state = .busyRx → s.ctx.rem = 0 →
    exec (.evRxne true tra) s = .next { s with
      fault := some .rxUnderflow, stack := .evh :: s.stack
      mid := s.mid.set [.rule (.evRxne true tra) 1] .evh }

/-- TXE in master role with bytes left reads the byte at the buffer address, writes it to the data register, and
moves the address and the count on (42 R146, 20 R67). -/
def Obligations.TxeSendsAByte : Prop :=
  ∀ (tra : Bool) (s : State), eventStarts s true → s.quiet 1 = true →
    s.ctx.state = .busyTx → s.ctx.rem ≠ 0 → s.admits s.ctx.buf = true →
    exec (.evTxe true tra) s = .next { s.elapsed 2 with
      mid := s.mid.set [] .evh
      ctx := { s.ctx with buf := s.ctx.buf + 1, rem := s.ctx.rem - 1 }
      hist := s.hist ++ tagged .evh
        [.memR s.ctx.buf (Memory.read s.mem s.ctx.buf.toNat), .busDrw (Memory.read s.mem s.ctx.buf.toNat)] }

/-- In slave role TXE as transmitter emits DATA_REQ and RXNE as receiver emits DATA_RCV, and nothing else changes.
Stated for an APP that issues nothing (42 R145, R146). -/
def Obligations.SlaveDataEventsReachApp : Prop :=
  ∀ (s : State), eventStarts s true → s.quiet 1 = true → s.appCommands = [] →
    exec (.evTxe false true) s = .next { s.elapsed 2 with
      mid := s.mid.set [] .evh, app := s.app.tail, hist := s.hist ++ tagged .evh [.cb .dataReq] } ∧
    exec (.evRxne false false) s = .next { s.elapsed 2 with
      mid := s.mid.set [] .evh, app := s.app.tail, hist := s.hist ++ tagged .evh [.cb .dataRcv] }

/-- Where APP has commands for the callback of an emitting rule, the callback opens (60 R216): the event is recorded
after the rule's earlier micro-steps, and the handler stays on the stack. That `mid[H]` then holds the callback's words
above the rule at the micro-step after the emitting one is the model's choice (log 12), by which the context is not
mid-rule (60 R212). So for slave TXE, RXNE, ADDR and STOPF, for BTF and RXNE that complete a transfer, and for each
flag of ERR, reached from its entry or resumed. -/
def Obligations.CallbackOpensForCommands : Prop :=
  ∀ (s : State) (w : Word) (ws : List Word) (tra : Bool), s.appCommands = w :: ws →
    let entered (h : Context) := { s with stack := h :: s.stack }
    (eventStarts s true → s.due = false →
      exec (.evTxe false true) s =
        .next (callbackOpened .evh .dataReq (w :: ws) (.evTxe false true) 2 (entered .evh)) ∧
      exec (.evRxne false false) s =
        .next (callbackOpened .evh .dataRcv (w :: ws) (.evRxne false false) 2 (entered .evh))) ∧
    (eventStarts s false → s.quiet 1 = true →
      exec (.evAddr false tra) s = .next (callbackOpened .evh .addrMatch (w :: ws) (.evAddr false tra) 3
        { (entered .evh).elapsed 1 with hist := s.hist ++ tagged .evh [.busClr .addr] }) ∧
      exec (.evStopf false tra) s = .next (callbackOpened .evh .stop (w :: ws) (.evStopf false tra) 3
        { (entered .evh).elapsed 1 with hist := s.hist ++ tagged .evh [.busClr .stopf] })) ∧
    (eventStarts s false → s.quiet 5 = true → s.ctx.state = .busyTx → s.ctx.rem = 0 →
      exec (.evBtf true tra) s = .next (callbackOpened .evh .txCmplt (w :: ws) (.evBtf true tra) 7
        { (entered .evh).elapsed 5 with
          ctx := { s.ctx with state := .ready }
          ctl := { s.ctl with itevten := false, itbufen := false, ack := s.cfg.ack }
          hist := s.hist ++ tagged .evh ((if s.ctx.sr then [] else [.busStop]) ++
            [.ctl .itevten 0, .ctl .itbufen 0, .ctl .ack (if s.cfg.ack then 1 else 0)]) })) ∧
    (eventStarts s true → s.quiet 6 = true → s.ctx.state = .busyRx → s.ctx.rem = 1 → s.admits s.ctx.buf = true →
      exec (.evRxne true tra) s = .next (callbackOpened .evh .rxCmplt (w :: ws) (.evRxne true tra) 8
        { (entered .evh).elapsed 6 with
          ctx := { s.ctx with state := .ready, buf := s.ctx.buf + 1, rem := 0 }
          ctl := { s.ctl with itevten := false, itbufen := false, ack := s.cfg.ack }
          mem := Memory.write s.mem s.ctx.buf.toNat (Config.drawByte s.draws)
          draws := s.draws + 1
          hist := s.hist ++ tagged .evh
            ([.busDrr (Config.drawByte s.draws), .memW s.ctx.buf (Config.drawByte s.draws)] ++
              (if s.ctx.sr then [] else [.busStop]) ++
              [.ctl .itevten 0, .ctl .itbufen 0, .ctl .ack (if s.cfg.ack then 1 else 0)]) })) ∧
    (∀ (flags : BitVec 5) (n : Nat) (flag : StatusFlag) (ev : AppEvent),
      errorOfBit n = some (flag, ev) → flags.getLsbD n = true →
      (errorStarts s → s.quiet n = true → (∀ m, m < n → flags.getLsbD m = false) →
        exec (.err flags) s = .next (callbackOpened .erh ev (w :: ws) (.err flags) (n + 2)
          { (entered .erh).elapsed n with hist := s.hist ++ tagged .erh [.busClr flag] })) ∧
      (s.top = .erh → s.frames = [] →
        resume (.err flags) (n + 1) s = .next (callbackOpened .erh ev (w :: ws) (.err flags) (n + 2)
          { s with hist := s.hist ++ tagged .erh [.busClr flag] }))) ∧
    (∀ (h : Context) (ev : AppEvent) (i : Instr) (k : Nat) (t : State), lastStep i < k ∨ (∃ f, i = .err f) →
      (callbackOpened h ev (w :: ws) i k t).midRule h = false)

/-- An event that matches no transition of the current state is ignored: nothing is recorded and nothing is
written (42 R148, and the no-op rows of R151). -/
def Obligations.UnexpectedEventsDoNothing : Prop :=
  ∀ (tra : Bool) (s : State), s.quiet 1 = true →
    let ignored := { s.elapsed 2 with mid := s.mid.set [] .evh }
    (eventStarts s false →
      (¬(s.ctx.state = .busyTx ∧ s.ctx.rem = 0) → exec (.evBtf true tra) s = .next ignored) ∧
      exec (.evBtf false tra) s = .next ignored ∧
      (s.ctx.state = .ready → exec (.evSb true tra) s = .next ignored ∧ exec (.evSb false tra) s = .next ignored)) ∧
    (eventStarts s true →
      (s.ctx.state ≠ .busyRx → exec (.evRxne true tra) s = .next ignored) ∧
      exec (.evRxne false true) s = .next ignored ∧
      (¬(s.ctx.state = .busyTx ∧ s.ctx.rem ≠ 0) → exec (.evTxe true tra) s = .next ignored) ∧
      exec (.evTxe false false) s = .next ignored)

/-- A master TXE or RXNE whose buffer address MEM_ADMIT does not admit has no step: with no word still to be
presented the machine is stuck; otherwise the handler stays at that micro-step with nothing recorded, read or
written (20 R66, 60 R203). -/
def Obligations.UnadmittedAccessIsStuck : Prop :=
  ∀ (tra : Bool) (s : State), eventStarts s true → s.due = false → s.admits s.ctx.buf = false →
    (s.ctx.state = .busyTx → s.ctx.rem ≠ 0 →
      (s.pres = [] → exec (.evTxe true tra) s = .fault (.stuck s.ctx.buf)) ∧
      (s.pres ≠ [] → exec (.evTxe true tra) s = .next { s.elapsed 1 with
        stack := .evh :: s.stack, mid := s.mid.set [.rule (.evTxe true tra) 1] .evh })) ∧
    (s.ctx.state = .busyRx → s.ctx.rem ≠ 0 →
      (s.pres = [] → exec (.evRxne true tra) s = .fault (.stuck s.ctx.buf)) ∧
      (s.pres ≠ [] → exec (.evRxne true tra) s = .next { s.elapsed 1 with
        stack := .evh :: s.stack, mid := s.mid.set [.rule (.evRxne true tra) 1] .evh }))

/-- Every slave transition, and STX and SRX, leave the Transfer Context, the configuration, the control fields and
memory unchanged, begun, resumed or gone on with after a callback, whatever APP is to issue (43 R172). -/
def Obligations.SlaveEngineHasNoState : Prop :=
  ∀ (i : Instr) (s t : State),
    (∃ tra v, i = .evAddr false tra ∨ i = .evTxe false tra ∨ i = .evRxne false tra ∨ i = .evStopf false tra ∨
      i = .evSb false tra ∨ i = .evBtf false tra ∨ i = .stx v ∨ i = .srx) →
    Runs i s t → t.ctx = s.ctx ∧ t.cfg = s.cfg ∧ t.ctl = s.ctl ∧ t.mem = s.mem

/-! ## Error classifier (spec 44) -/

/-- For each set flag, in flag-bit order, ERR clears the flag and emits its event exactly once, and nothing else
changes; an error word with no flag records nothing (44 R175, R176, R178). Begun, it does so for an APP that issues
nothing in the callbacks. Whatever APP did in an open callback, its return goes on with every later flag, and so does a
rule resumed: `s` is then any state in which ERH runs, such as the one a Close in the callback of the first pair
leaves, and the fields and the clock gate are not asked again. -/
def Obligations.ErrReportsEachFlagOnce : Prop :=
  ∀ (flags : BitVec 5) (s : State),
    (errorStarts s → s.quiet 5 = true → (∀ cs ∈ s.app.take (errorCallbacksFrom flags 0), cs = []) →
      exec (.err flags) s = .next { s.elapsed 6 with
        mid := s.mid.set [] .erh
        app := s.app.drop (errorCallbacksFrom flags 0)
        hist := s.hist ++ tagged .erh (errorReports flags) }) ∧
    (∀ k, k ≤ 5 → s.top = .erh → (∀ cs ∈ s.app.take (errorCallbacksFrom flags k), cs = []) →
      let ended (moments : Nat) := { s.elapsed moments with
        stack := s.stack.tail
        mid := s.mid.set [] .erh
        app := s.app.drop (errorCallbacksFrom flags k)
        hist := s.hist ++ tagged .erh (errorReportsFrom flags k) }
      (1 ≤ k → s.quiet (6 - k) = true → callbackReturn (.err flags) (k + 1) s = .next (ended (7 - k))) ∧
      (k < 5 → s.quiet (5 - k) = true → resume (.err flags) (k + 1) s = .next (ended (6 - k))))

/-- ERR writes no field: it generates no STOP, changes no control field, disables no source and leaves the
transfer as it is, begun, resumed or gone on with after a callback, whatever APP is to issue (44 R177). -/
def Obligations.ErrLeavesTheTransfer : Prop :=
  ∀ (flags : BitVec 5) (s t : State), Runs (.err flags) s t →
    t.ctx = s.ctx ∧ t.cfg = s.cfg ∧ t.ctl = s.ctl ∧ t.clken = s.clken ∧ t.nvic = s.nvic ∧ t.mem = s.mem ∧
    ∀ c, ⟨c, .busStop⟩ ∉ t.hist.drop s.hist.length

/-! ## Whole-machine rules -/

/-- Every step keeps the shape of the state: a legal stack with each handler at most once above MAIN, legal entries
in each context and none off the stack, and the buffer memory in canonical form (10 R50, R51, 60 R211, 20 R60;
the form of the memory and of the entries is the model's, log 6, 12). -/
def Obligations.StepKeepsShape : Prop := ∀ (s t : State), Shape s → step s = .next t → Shape t

/-- The shape holds at reset. -/
def Obligations.ResetHasShape : Prop := Shape State.reset

/-- The block only appends to the history and never reads it: a history in front of the one a step starts from is in
front of the one it ends with, and changes nothing else (00 R10). -/
def Obligations.HistoryIsAppendedAndNeverRead : Prop :=
  ∀ (s : State) (h : List Record),
    step { s with hist := h ++ s.hist } = mapNext (fun t => { t with hist := h ++ t.hist }) (step s)

/-- No rule of the block reads `Ctl(PE)`: an input other than PE and DEINIT, which write it, does the same whatever
it holds, begun, resumed or gone on with after a callback (10 R30, 41 R134). -/
def Obligations.NothingReadsPe : Prop :=
  ∀ (i : Instr) (s : State) (v : Bool), (∀ en, i ≠ .pe en) → i ≠ .deinit →
    let withPe (t : State) : State := { t with ctl := { t.ctl with pe := v } }
    exec i (withPe s) = mapNext withPe (exec i s) ∧
    ∀ k, resume i k (withPe s) = mapNext withPe (resume i k s) ∧
      callbackReturn i k (withPe s) = mapNext withPe (callbackReturn i k s)

/-- Only CLK writes CLKEN, only IRQEN the line enables, only IRQPRI the priorities, and only INIT and DEINIT the
configuration, DEINIT leaving the first three; a rule begun, resumed or gone on with after a callback (10 R29, R42, R43,
R44). -/
def Obligations.OneWriterForEachPlumbingField : Prop :=
  ∀ (i : Instr) (s t : State), Runs i s t →
    ((∀ en, i ≠ .clk en) → t.clken = s.clken) ∧
    ((∀ l en, i ≠ .irqen l en) → t.nvic.enEv = s.nvic.enEv ∧ t.nvic.enEr = s.nvic.enEr) ∧
    ((∀ l p, i ≠ .irqpri l p) → t.nvic.prioEv = s.nvic.prioEv ∧ t.nvic.prioEr = s.nvic.prioEr) ∧
    ((∀ own sp du a, i ≠ .init own sp du a) → i ≠ .deinit → t.cfg = s.cfg)

/-- Who moves the Transfer State (10 R27): to BUSY_TX only MTX, to BUSY_RX only MRX, to READY only the Close
commands, DEINIT, and the completion rules BTF and RXNE; a rule begun, resumed or gone on with after a callback. -/
def Obligations.WhoMovesTheTransferState : Prop :=
  ∀ (i : Instr) (s t : State), Runs i s t → t.ctx.state ≠ s.ctx.state →
    (t.ctx.state = .busyTx → ∃ dev sr buf len, i = .mtx dev sr buf len) ∧
    (t.ctx.state = .busyRx → ∃ dev sr buf len, i = .mrx dev sr buf len) ∧
    (t.ctx.state = .ready → i = .closetx ∨ i = .closerx ∨ i = .deinit ∨
      (∃ tra, i = .evBtf true tra) ∨ ∃ tra, i = .evRxne true tra)

/-- Only a master RXNE writes the buffer memory, and only the byte at `ctx.buf`; a rule begun, resumed (a master RXNE
that waited at its entry among them) or gone on with after a callback (20 R60). -/
def Obligations.OnlyReceiveWritesMemory : Prop :=
  ∀ (i : Instr) (s t : State), Runs i s t →
    ((∀ tra, i ≠ .evRxne true tra) → t.mem = s.mem) ∧
    (Memory.wf s.mem = true → ∀ a, a ≠ s.ctx.buf.toNat → Memory.read t.mem a = Memory.read s.mem a)

/-- The spec calls the fault RX_UNDERFLOW unreachable (42 R145). Under its own rules it is reachable: see log 15. -/
def Obligations.RxUnderflowIsUnreachable : Prop :=
  ∀ (mainIn : List Word) (pres : List Presented) (app : List (List Word)) (n : Nat) (t : State),
    Sys2Proof.core.run n { State.reset with mainIn := mainIn, pres := pres, app := app } = .next t →
    t.fault ≠ some .rxUnderflow
end

