-- ==== Sys2Proof/Laws/PerInstr.lean ====
section
/-! SUPPORT. A law of every input as syntax: its words are as many as its first word tells (spec 30 R94). -/

namespace Sys2Proof.Laws.EncodedLength

open Sys2Proof

/-- The first word of an input's words tells how many there are (spec 30 R94). -/
def Statement (i : Instr) : Prop := (encode i).length = inputLength ((encode i).headD 0)

theorem clk (en : Bool) : Statement (.clk en) := by revert en; unfold Statement; decide

theorem init (own : BitVec 7) (speed : Speed) (duty : Duty) (ack : Bool) :
    Statement (.init own speed duty ack) := by
  cases speed <;> cases duty <;> cases ack <;> revert own <;> unfold Statement <;> decide

theorem deinit : Statement .deinit := by unfold Statement; decide

theorem pe (en : Bool) : Statement (.pe en) := by revert en; unfold Statement; decide

theorem gc (en : Bool) : Statement (.gc en) := by revert en; unfold Statement; decide

theorem cben (en : Bool) : Statement (.cben en) := by revert en; unfold Statement; decide

theorem irqen (line : Line) (en : Bool) : Statement (.irqen line en) := by
  cases line <;> revert en <;> unfold Statement <;> decide

theorem irqpri (line : Line) (prio : Byte) : Statement (.irqpri line prio) := by
  cases line <;> revert prio <;> unfold Statement <;> decide

/-- The first word of an MTX or MRX opens a C3 command, whatever its address and its repeated-start bit. -/
theorem isC3_first : ∀ (dev : BitVec 7) (sr : Bool),
    isC3 (commandWord 0x10 (bit sr * 2 ^ 7 + dev.toNat)) = true ∧
      isC3 (commandWord 0x11 (bit sr * 2 ^ 7 + dev.toNat)) = true := by decide

theorem mtx (dev : BitVec 7) (sr : Bool) (buf len : Word) : Statement (.mtx dev sr buf len) := by
  have h := (isC3_first dev sr).1
  simp only [Statement, encode, List.headD_cons, inputLength, h]; rfl

theorem mrx (dev : BitVec 7) (sr : Bool) (buf len : Word) : Statement (.mrx dev sr buf len) := by
  have h := (isC3_first dev sr).2
  simp only [Statement, encode, List.headD_cons, inputLength, h]; rfl

theorem closetx : Statement .closetx := by unfold Statement; decide

theorem closerx : Statement .closerx := by unfold Statement; decide

theorem stx (value : Byte) : Statement (.stx value) := by revert value; unfold Statement; decide

theorem srx : Statement .srx := by unfold Statement; decide

theorem flag (index : BitVec 5) : Statement (.flag index) := by revert index; unfold Statement; decide

theorem evSb (msl tra : Bool) : Statement (.evSb msl tra) := by revert msl tra; unfold Statement; decide

theorem evAddr (msl tra : Bool) : Statement (.evAddr msl tra) := by revert msl tra; unfold Statement; decide

theorem evBtf (msl tra : Bool) : Statement (.evBtf msl tra) := by revert msl tra; unfold Statement; decide

theorem evStopf (msl tra : Bool) : Statement (.evStopf msl tra) := by revert msl tra; unfold Statement; decide

theorem evRxne (msl tra : Bool) : Statement (.evRxne msl tra) := by revert msl tra; unfold Statement; decide

theorem evTxe (msl tra : Bool) : Statement (.evTxe msl tra) := by revert msl tra; unfold Statement; decide

theorem err (flags : BitVec 5) : Statement (.err flags) := by revert flags; unfold Statement; decide

end Sys2Proof.Laws.EncodedLength
end

