-- ==== Sys2Proof/Laws/Step.lean ====
section
/-! SUPPORT. Which move a step takes, said once for each shape of the state (spec 60 R229), and the principle by
which a property of states that the micro-steps and the bookkeeping keep is kept by `step`. -/

namespace Sys2Proof.Machine

section Moves

variable {s : State} {w : Word} {ws rest : List Word} {i : Instr}

/-- A faulted state takes no further step (spec 60 R201). -/
theorem fetch_marked {c : FaultCode} (hf : s.fault = some c) : fetch s = .answer (.fault (.marked c)) := by
  simp only [fetch, hf]

/-- A word that is due is presented first (spec 60 R210). -/
theorem fetch_due {ps : List Presented} (hf : s.fault = none) (hp : s.pres = ⟨0, w⟩ :: ps) :
    fetch s = fetchInput .periph w [] fun _ => { s with pres := ps } := by
  have hm : s.mover = .periph := by simp [State.mover, State.due, dueNow, hp]
  simp only [fetch, hf, hm, hp]

/-- With no word due PERIPH is not the agent that moves. -/
theorem State.mover_ne_periph (hd : s.due = false) : s.mover ≠ .periph := by
  unfold State.mover
  rw [hd]
  rcases s.frames with _ | ⟨_ | _, _⟩ <;> cases s.top <;> simp [Context.agent]

/-- With no word due the running context moves. -/
theorem fetch_own (hf : s.fault = none) (hd : s.due = false) : fetch s = fetchOwn s := by
  have hm := State.mover_ne_periph hd
  simp only [fetch, hf]
  split
  · next h _ => exact absurd h hm
  · rfl

/-- MAIN with nothing begun takes its next input (spec 60 R229, move 1). -/
theorem fetchOwn_main (hfr : s.frames = []) (ht : s.top = .main) (hm : s.mainIn = w :: ws) :
    fetchOwn s = fetchInput .main w ws fun rest => { s with mainIn := rest } := by
  simp only [fetchOwn, hfr, ht, hm]

/-- APP issues its next command in an open callback (spec 60 R216, R229 move 6). -/
theorem fetchOwn_callback {ev : AppEvent} {fs : List Frame} (hfr : s.frames = .callback ev (w :: ws) :: fs) :
    fetchOwn s = fetchInput .app w ws fun rest => s.setFrames (.callback ev rest :: fs) := by
  simp only [fetchOwn, hfr]

end Moves

section Inputs

variable {a : Agent} {w : Word} {ws rest : List Word} {i : Instr} {put : List Word → State}

/-- What a first word decodes to is an input of its port (spec 30 R80): a command of class 00, an event or error of
class 01 or 10. -/
theorem portClass_of_decode (hd : decode (w :: ws) = .instr i rest) :
    (isCommand i = true ∧ portClass w = .command) ∨
      (isCommand i = false ∧ (portClass w = .event ∨ portClass w = .error)) := by
  unfold decode at hd
  cases hc : portClass w <;> simp only [hc] at hd
  · refine .inl ⟨?_, rfl⟩
    split at hd
    · split at hd
      · unfold decodeC3 at hd
        split at hd <;> (try split at hd) <;> (cases hd; try rfl)
      · cases hd
    · unfold decodeC1 at hd
      split at hd <;> (try split at hd) <;> (try split at hd) <;> cases hd <;> rfl
  · refine .inr ⟨?_, .inl rfl⟩
    unfold decodeEvent at hd
    split at hd <;> cases hd <;> rfl
  · refine .inr ⟨?_, .inr rfl⟩
    unfold decodeError at hd
    split at hd
    · cases hd; rfl
    · cases hd
  · cases hd

/-- Words that spell nothing begin with a word of class 00 or 11 (spec 30 R86, R91, R92). -/
theorem portClass_of_illegal {why : DecodeError} (hd : decode (w :: ws) = .illegal why rest) :
    portClass w = .command ∨ portClass w = .reserved := by
  unfold decode at hd
  cases hc : portClass w <;> simp only [hc] at hd
  · exact .inl rfl
  · unfold decodeEvent at hd
    split at hd <;> cases hd
  · unfold decodeError at hd
    split at hd <;> cases hd
  · exact .inr rfl

/-- Words that spell an input of the agent's port are executed. -/
theorem fetchInput_instr (ha : a.issues (portClass w) = true) (hd : decode (w :: ws) = .instr i rest) :
    fetchInput a w ws put = .exec i (put rest) := by
  simp only [fetchInput, ha, hd, if_true]

/-- A reserved event or error word starts its handler with nothing to run (spec 42 R149, 44 R175). -/
theorem fetchInput_ignored (ha : a.issues (portClass w) = true) (hd : decode (w :: ws) = .ignored rest) :
    fetchInput a w ws put = .answer (runReserved (lineOfClass (portClass w)) (put rest)) := by
  simp only [fetchInput, ha, hd, if_true]

/-- Words that spell nothing set the refusal mark, and a moment passes (spec 60 R202; log 9). -/
theorem fetchInput_illegal {why : DecodeError} (ha : a.issues (portClass w) = true)
    (hd : decode (w :: ws) = .illegal why rest) :
    fetchInput a w ws put = .answer (.next (put rest).refuse.elapse) := by
  simp only [fetchInput, ha, hd, if_true]

/-- A word off its agent's port has no move (spec 60 R221). -/
theorem fetchInput_off (ha : a.issues (portClass w) = false) :
    fetchInput a w ws put = .answer (.refused .wrongPort) := by
  simp [fetchInput, ha]

end Inputs

section Keeps

variable {P : State → Prop} {s t : State}

/-- A reserved word is discarded where its line's gate is false or its handler may not start (spec 60 R208, R210). -/
theorem runReserved_off {l : Line} (h : s.lineGate l = false ∨ s.mayPreempt l = false) : runReserved l s = .next s := by
  rcases h with h | h <;> simp [runReserved, h]

/-- With no word presented at once, a reserved word's handler enters and exits in one move (spec 60 R214, R215). -/
theorem runReserved_alone {l : Line} (hg : s.lineGate l = true) (hm : s.mayPreempt l = true) (hd : s.due = false) :
    runReserved l s = .next (s.enter (handlerOf l)).leave.elapse := by
  simp [runReserved, hg, hm, hd]

/-- A word presented at once with a reserved word finds the handler on the stack (spec 60 R213). -/
theorem runReserved_due {l : Line} (hg : s.lineGate l = true) (hm : s.mayPreempt l = true) (hd : s.due = true) :
    runReserved l s = .next (s.enter (handlerOf l)) := by
  simp [runReserved, hg, hm, hd]

/-- A reserved word's handler keeps what entry, exit and the passing of moments keep. -/
theorem runReserved_keeps {l : Line} (hP : Kept P) (hs : P s) (h : runReserved l s = .next t) : P t := by
  unfold runReserved at h
  split at h
  · split at h
    · cases h; exact hP.enter _ _ hs
    · cases h; exact hP.elapsed _ 1 (hP.leave _ (hP.enter _ _ hs))
  · cases h; exact hs

/-- An input whose words are taken keeps what executing any input, a refusal and a reserved word keep. -/
theorem fetchInput_keeps {a : Agent} {w : Word} {ws : List Word} {put : List Word → State} (hP : Kept P)
    (hexec : ∀ i s t, P s → exec i s = .next t → P t) (hrefuse : ∀ s, P s → P s.refuse)
    (hput : ∀ rest, P (put rest))
    (h : (match fetchInput a w ws put with | .exec i s => exec i s | .answer b => b) = .next t) : P t := by
  cases ha : a.issues (portClass w) with
  | false => rw [fetchInput_off ha] at h; cases h
  | true =>
    cases hd : decode (w :: ws) with
    | instr i rest => rw [fetchInput_instr ha hd] at h; exact hexec _ _ _ (hput rest) h
    | ignored rest => rw [fetchInput_ignored ha hd] at h; exact runReserved_keeps hP (hput rest) h
    | illegal why rest => rw [fetchInput_illegal ha hd] at h; cases h; exact hP.elapsed _ 1 (hrefuse _ (hput rest))

/-- Whatever the micro-steps of every rule, the bookkeeping, a refusal and the taking of words keep, a step keeps. -/
theorem step_keeps (hP : Kept P) (hmicro : ∀ i k s, P s → (microOf i k s).Leaves P)
    (hrefuse : ∀ s, P s → P s.refuse) (hmain : ∀ s ws, P s → P { s with mainIn := ws })
    (hpres : ∀ s ps, P s → P { s with pres := ps }) (hs : P s) (h : step s = .next t) : P t := by
  have hexec : ∀ i s t, P s → exec i s = .next t → P t := fun i s t hs h => exec_keeps hP (hmicro i) hs h
  cases hf : s.fault with
  | some c => rw [step, fetch_marked hf] at h; cases h
  | none =>
    cases hd : s.due with
    | true =>
      cases hp : s.pres with
      | nil => simp [State.due, dueNow, hp] at hd
      | cons p ps =>
        obtain ⟨after, w⟩ := p
        have h0 : after = 0 := by simpa [State.due, dueNow, hp] using hd
        subst h0
        rw [step, fetch_due hf hp] at h
        exact fetchInput_keeps hP hexec hrefuse (fun _ => hpres s ps hs) h
    | false =>
      rw [step, fetch_own hf hd] at h
      unfold fetchOwn at h
      cases hfr : s.frames with
      | nil =>
        simp only [hfr] at h
        cases ht : s.top <;> simp only [ht] at h
        · cases hm : s.mainIn with
          | nil => simp only [hm] at h; cases h; exact hP.elapsed _ 1 hs
          | cons w ws => simp only [hm] at h; exact fetchInput_keeps hP hexec hrefuse (fun _ => hmain s _ hs) h
        · cases h; exact hP.elapsed _ 1 (hP.leave s hs)
        · cases h; exact hP.elapsed _ 1 (hP.leave s hs)
      | cons f fs =>
        simp only [hfr] at h
        cases f with
        | rule i k => exact resume_keeps hP (hmicro i) (hP.frames s fs hs) h
        | callback ev cmds =>
          cases cmds with
          | cons w ws => exact fetchInput_keeps hP hexec hrefuse (fun _ => hP.frames s _ hs) h
          | nil =>
            rcases fs with _ | ⟨⟨i, k⟩ | ⟨ev', cmds'⟩, fs⟩
            · cases h; exact hP.frames s _ hs
            · exact callbackReturn_keeps hP (hmicro i) (hP.frames s _ hs) h
            · cases h; exact hP.frames s _ hs

end Keeps

end Sys2Proof.Machine
end

