-- ==== Sys2Proof/Tests/Slice0.lean ====
section
/-! SUPPORT. Tests: ill-formed terms and words are refused, words written out from the spec decode to their inputs,
each instruction's vectors of spec 95, and a witness for each statement that has hypotheses. -/

namespace Sys2Proof.Tests

open Sys2Proof Sys2Proof.Machine

/-! ## Start states (spec 95 section 0) and what a test looks at -/

/-- S_boot (spec 95 section 0), with the timing values of the reference instantiation. -/
def boot : State := { State.reset with
  clken := true
  cfg := ⟨.sm, .d2, true, 0x61⟩
  ctl := ⟨true, true, false, false, false, false, 0x61, .sm, .d2, 16, 80, 17⟩
  nvic := ⟨true, true, 0, 0⟩ }

/-- S_boot with the three source enables on (spec 95 V-C17). -/
def opened : State := { boot with ctl := { boot.ctl with itevten := true, itbufen := true, iterren := true } }

/-- A master send in flight (spec 95 V-M1) with `rem` bytes left. -/
def sending (rem : Word) (sr : Bool) : State := { opened with ctx := ⟨.busyTx, 0x20000000, rem, 0x68, sr⟩ }

/-- A master receive in flight (spec 95 V-M7) with `rem` bytes left. -/
def receiving (rem : Word) : State := { opened with ctx := ⟨.busyRx, 0x20000100, rem, 0x50, false⟩ }

/-- EVH running above an MTX that MAIN left at micro-step 2 (spec 95 P8, 60 R212). -/
def midMtx : State := { opened with
  stack := [.erh, .main], mid := ⟨[.rule (.mtx 0x68 false 0x20000000 1) 2], [], []⟩ }

/-- What a test looks at in a next state; nothing on a stop. -/
def look {α : Type} (a : Answer) (f : State → α) : Option α :=
  match a with
  | .next t => some (f t)
  | .fault _ => none
  | .refused _ => none

/-- The records a test's input makes, of one context (spec 00 R10). -/
def made (a : Answer) : Option (List Action) := look a fun t => t.hist.map Record.action

/-! ## Ill-formed terms, and words that spell nothing (spec 30 R86, R91, R94; 95 V-C12, V-C19, V-C21, V-C22, V-M6,
V-M8, V-S4) -/

theorem test_wf_refuses_flag3 : (Instr.flag 3).wf = false := by decide
theorem test_wf_refuses_flag_boundaries :
    [5, 12, 13, 15, 19, 31].map (fun n => (Instr.flag n).wf) = List.replicate 6 false := by decide
theorem test_wf_takes_flags :
    [0, 1, 2, 4, 6, 7, 8, 9, 10, 11, 14, 16, 17, 18].map (fun n => (Instr.flag n).wf) =
      List.replicate 14 true := by decide

theorem test_decode_init_bit7 : decode [0x020004E1] = .illegal .reservedBit [] := by decide
theorem test_decode_flag3 : decode [0x20000003] = .illegal .badFlagIndex [] := by decide
theorem test_decode_opcode09 : decode [0x09000000] = .illegal .unknownOpcode [] := by decide
theorem test_decode_class11 : decode [0xC0000000] = .illegal .reservedClass [] := by decide
theorem test_decode_mtx_bit8 : decode [0x10000168, 1, 2, 3] = .illegal .reservedBit [3] := by decide
theorem test_decode_mtx_cut : decode [0x10000068, 0x20000000] = .illegal .truncated [] := by decide
theorem test_decode_stx_bit8 : decode [0x18000177] = .illegal .reservedBit [] := by decide
theorem test_decode_reserved_event : decode [0x43000300] = .ignored [] := by decide
theorem test_decode_reserved_error : decode [0x81000001] = .ignored [] := by decide

/-! ## Words written out from the spec's encodings (spec 30 R81 to R85; 95 sections 2 and 3) -/

theorem test_decode_clk : decode [0x01000001] = .instr (.clk true) [] := by decide
theorem test_decode_init : decode [0x02000361] = .instr (.init 0x61 .fm .d16 false) [] := by decide
theorem test_decode_init_sm : decode [0x02000500] = .instr (.init 0 .fm .d2 true) [] := by decide
theorem test_decode_deinit : decode [0x03000000] = .instr .deinit [] := by decide
theorem test_decode_pe : decode [0x04000001] = .instr (.pe true) [] := by decide
theorem test_decode_gc : decode [0x05000001] = .instr (.gc true) [] := by decide
theorem test_decode_cben : decode [0x06000001] = .instr (.cben true) [] := by decide
theorem test_decode_irqen : decode [0x07000002] = .instr (.irqen .er false) [] := by decide
theorem test_decode_irqpri : decode [0x08002500] = .instr (.irqpri .ev 0x25) [] := by decide
theorem test_decode_mtx :
    decode [0x10000090, 0x20000050, 9, 7] = .instr (.mtx 0x10 true 0x20000050 9) [7] := by decide
theorem test_decode_mrx :
    decode [0x11000050, 0x20000100, 3] = .instr (.mrx 0x50 false 0x20000100 3) [] := by decide
theorem test_decode_closetx : decode [0x12000000] = .instr .closetx [] := by decide
theorem test_decode_closerx : decode [0x13000000] = .instr .closerx [] := by decide
theorem test_decode_stx : decode [0x18000077] = .instr (.stx 0x77) [] := by decide
theorem test_decode_srx : decode [0x19000000] = .instr .srx [] := by decide
theorem test_decode_flag : decode [0x2000000E] = .instr (.flag 14) [] := by decide
theorem test_decode_evSb : decode [0x40000100] = .instr (.evSb true false) [] := by decide
theorem test_decode_evAddr : decode [0x41000200] = .instr (.evAddr false true) [] := by decide
theorem test_decode_evBtf : decode [0x42000300] = .instr (.evBtf true true) [] := by decide
theorem test_decode_evStopf : decode [0x44000000] = .instr (.evStopf false false) [] := by decide
theorem test_decode_evRxne : decode [0x46000100] = .instr (.evRxne true false) [] := by decide
theorem test_decode_evTxe : decode [0x47FFFFFF] = .instr (.evTxe true true) [] := by decide
theorem test_decode_err : decode [0x80FFFFE1] = .instr (.err 1) [] := by decide

/-! ## Output codes and flag indices (spec 30 R89, R91; 60 R201; 10 R45) -/

theorem test_event_codes : [AppEvent.txCmplt, .rxCmplt, .stop, .errBerr, .errArlo, .errAf, .errOvr, .errTimeout,
    .dataReq, .dataRcv, .addrMatch].map AppEvent.code = List.range 11 := by decide
theorem test_fault_codes : [FaultCode.clockOff, .initBusy, .rxZeroLength, .rxUnderflow, .contextRace].map
    FaultCode.code = [1, 2, 3, 4, 5] := by decide
theorem test_flag_indices : [StatusFlag.sb, .addr, .btf, .stopf, .rxne, .txe, .berr, .arlo, .af, .ovr, .timeout,
    .msl, .busy, .tra].map StatusFlag.index = flagIndices := by decide

/-! ## The text syntax (spec 30 R95; 95 P3, P5, V-C15) -/

theorem test_assemble_mtx :
    assemble "MTX dev=0x68, sr=1, buf=0x20000000, len=1".toList = some [0x100000E8, 0x20000000, 1] := by decide
theorem test_assemble_irqpri : assemble "IRQPRI line=ER, prio=0x1F".toList = some [0x08001F02] := by decide
/-- 95 V-C19: the line is its word, which the decoder refuses. -/
theorem test_assemble_flag3 : assemble "FLAG index=3".toList = some [0x20000003] := by decide
theorem test_assemble_err : assemble "ERR flags=ARLO|AF|TIMEOUT".toList = some [0x80000016] := by decide

/-! ## The reference timing (spec 93 I-GK4, 70 R262; 95 S_boot step 2, V-C6, V-C8, V-C9, V-C10) -/

theorem test_reference_sm : (Config.freqReference 16000000, Config.ccrReference 16000000 .sm .d2,
    Config.triseReference 16000000 .sm) = (16, 80, 17) := by decide
theorem test_reference_slowest : (Config.freqReference 2000000, Config.ccrReference 2000000 .sm .d2,
    Config.triseReference 2000000 .sm) = (2, 10, 3) := by decide
theorem test_reference_fm : (Config.ccrReference 4000000 .fm .d2, Config.triseReference 4000000 .fm,
    Config.ccrReference 16000000 .fm .d16, Config.triseReference 16000000 .fm,
    Config.ccrReference 16000000 .fm .d2) = (3, 2, 1, 5, 13) := by decide

/-! ## Commands (spec 95 sections 2.1 to 2.4) -/

theorem test_clk_on : look (exec (.clk true) State.reset) (fun t => (t.clken, t.hist)) =
    some (true, [⟨.main, .ctl .clken 1⟩]) := by decide
theorem test_clk_off : look (exec (.clk false) boot) (·.clken) = some false := by decide

theorem test_init_too_slow :
    made (exec (.init 0x61 .sm .d2 true) { boot with launch := { boot.launch with pclkHz := 1999999 } }) =
      some [.reply .init 1] := by decide
theorem test_init_fast_mode : look (exec (.init 0x61 .fm .d16 false) boot)
    (fun t => (t.cfg, t.ctl.fs, t.ctl.duty, t.ctl.ack, t.hist.length)) =
      some (⟨.fm, .d16, false, 0x61⟩, .fm, .d16, false, 8) := by decide

theorem test_deinit : look (exec .deinit (sending 1 false)) (fun t => (t.ctx, t.ctl, t.cfg)) =
    some (⟨.ready, 0, 0, 0, false⟩,
      ⟨false, false, false, false, false, false, 0, .sm, .d2, 0, 0, 2⟩, ⟨.sm, .d2, false, 0⟩) := by decide
theorem test_deinit_leaves : look (exec .deinit (sending 1 false)) (fun t => (t.clken, t.nvic, t.hist)) =
    some (true, ⟨true, true, 0, 0⟩, [⟨.main, .ctl .reset 0⟩]) := by decide

theorem test_pe_clock_off : look (exec (.pe true) State.reset) (fun t => (t.fault, t.hist)) =
    some (some .clockOff, []) := by decide
theorem test_pe : look (exec (.pe false) boot) (fun t => (t.ctl.pe, t.hist)) =
    some (false, [⟨.main, .ctl .pe 0⟩]) := by decide

theorem test_gc : look (exec (.gc true) boot) (fun t => (t.ctl.engc, t.hist)) =
    some (true, [⟨.main, .ctl .engc 1⟩]) := by decide

theorem test_cben : look (exec (.cben true) boot) (fun t => (t.ctl, t.hist.map Record.action)) =
    some (opened.ctl, [.ctl .itevten 1, .ctl .itbufen 1, .ctl .iterren 1]) := by decide

theorem test_irqen_clock_off : look (exec (.irqen .ev true) State.reset) (fun t => (t.nvic, t.hist)) =
    some (⟨true, false, 0, 0⟩, [⟨.main, .ctl (.nvicEn .ev) 1⟩]) := by decide

theorem test_irqpri_ev : look (exec (.irqpri .ev 0x25) boot) (·.nvic) = some ⟨true, true, 0x20, 0⟩ := by decide
theorem test_irqpri_er : look (exec (.irqpri .er 0x1F) boot) (fun t => (t.nvic, t.hist)) =
    some (⟨true, true, 0, 0x10⟩, [⟨.main, .ctl (.nvicPrio .er) 0x10⟩]) := by decide

theorem test_flag : look (exec (.flag 17) boot) (fun t => (t.hist.length, t.draws, t.ctl == boot.ctl)) =
    some (1, 1, true) := by decide

theorem test_mtx : look (exec (.mtx 0x68 false 0x20000000 2) boot)
    (fun t => (t.ctx, t.hist.map Record.action)) = some (⟨.busyTx, 0x20000000, 2, 0x68, false⟩,
      [.ctl .itevten 1, .ctl .itbufen 1, .ctl .iterren 1, .busStart, .reply .mtx 0]) := by decide
theorem test_mtx_busy : look (exec (.mtx 0x10 true 0x20000050 9) (receiving 3))
    (fun t => (t.ctx, t.hist.map Record.action)) =
      some (⟨.busyRx, 0x20000100, 3, 0x50, false⟩, [.reply .mtx 2]) := by decide

theorem test_mrx_zero : look (exec (.mrx 0x50 false 0x20000100 0) boot) (fun t => (t.fault, t.hist)) =
    some (some .rxZeroLength, []) := by decide
theorem test_mrx_zero_busy : look (exec (.mrx 0x50 false 0x20000100 0) (sending 2 false))
    (fun t => (t.fault, t.hist.map Record.action)) = some (none, [.reply .mrx 1]) := by decide

theorem test_closetx : look (exec .closetx (sending 2 false)) (fun t => (t.ctx, t.ctl.iterren, t.hist.length)) =
    some (⟨.ready, 0x20000000, 0, 0x68, false⟩, true, 3) := by decide
theorem test_closetx_race : look (exec .closetx midMtx) (fun t => (t.fault, t.hist)) =
    some (some .contextRace, []) := by decide

theorem test_closerx : made (exec .closerx { receiving 3 with cfg := ⟨.fm, .d16, false, 0x61⟩ }) =
    some [.ctl .itevten 0, .ctl .itbufen 0, .ctl .ack 0] := by decide
theorem test_closerx_ready : look (exec .closerx boot) (fun t => (t.ctx == boot.ctx, t.ctl == boot.ctl)) =
    some (true, true) := by decide

theorem test_stx : made (exec (.stx 0x77) boot) = some [.busDrw 0x77] := by decide
theorem test_stx_clock_off : look (exec (.stx 1) State.reset) (·.fault) = some (some .clockOff) := by decide

theorem test_srx : look (exec .srx (sending 2 false)) (fun t => (t.hist.length, t.draws, t.ctx.state)) =
    some (2, 1, .busyTx) := by decide

/-! ## Events and errors (spec 95 sections 3.1 and 3.2) -/

theorem test_evSb_receive : made (exec (.evSb false false) { receiving 1 with ctx := ⟨.busyRx, 0, 1, 0x7F, false⟩ }) =
    some [.busDrw 0xFF] := by decide
theorem test_evSb_gate : made (exec (.evSb true false) boot) = some [] := by decide

theorem test_evAddr_one : look (exec (.evAddr true false) (receiving 1)) (fun t => (t.ctl.ack, t.hist)) =
    some (false, [⟨.evh, .ctl .ack 0⟩, ⟨.evh, .busClr .addr⟩]) := by decide
theorem test_evAddr_slave : made (exec (.evAddr false true) opened) =
    some [.busClr .addr, .cb .addrMatch] := by decide

theorem test_evBtf : look (exec (.evBtf true true) (sending 0 false))
    (fun t => (t.ctx.state, t.stack, t.hist.map Record.action)) = some (.ready, [.main],
      [.busStop, .ctl .itevten 0, .ctl .itbufen 0, .ctl .ack 1, .cb .txCmplt]) := by decide
theorem test_evBtf_sr : made (exec (.evBtf true true) (sending 0 true)) =
    some [.ctl .itevten 0, .ctl .itbufen 0, .ctl .ack 1, .cb .txCmplt] := by decide

theorem test_evStopf_master : made (exec (.evStopf true true) (sending 2 false)) = some [.busClr .stopf] := by decide
theorem test_evStopf_slave : made (exec (.evStopf false false) opened) = some [.busClr .stopf, .cb .stop] := by decide

theorem test_evRxne_two : look (exec (.evRxne true false) (receiving 2))
    (fun t => (t.ctl.ack, t.ctx, t.hist.length)) =
      some (false, ⟨.busyRx, 0x20000101, 1, 0x50, false⟩, 3) := by decide
theorem test_evRxne_last : look (exec (.evRxne true false) (receiving 1))
    (fun t => (t.ctx, (t.hist.drop 2).map Record.action)) = some (⟨.ready, 0x20000101, 0, 0x50, false⟩,
      [.busStop, .ctl .itevten 0, .ctl .itbufen 0, .ctl .ack 1, .cb .rxCmplt]) := by decide

theorem test_evTxe_top : look (exec (.evTxe true true)
      { sending 2 false with ctx := ⟨.busyTx, 0xFFFFFFFF, 2, 0x68, false⟩, mem := [(0xFFFFFFFF, 0x11)] })
    (fun t => (t.ctx.buf, t.ctx.rem, t.hist.map Record.action)) =
      some (0, 1, [.memR 0xFFFFFFFF 0x11, .busDrw 0x11]) := by decide
theorem test_evTxe_slave : made (exec (.evTxe false true) opened) = some [.cb .dataReq] := by decide

theorem test_err_three : made (exec (.err 0x16) opened) = some [.busClr .arlo, .cb .errArlo, .busClr .af,
    .cb .errAf, .busClr .timeout, .cb .errTimeout] := by decide

/-! ## Preemption (spec 95 P8, P9; 60 R210) -/

theorem test_error_between_mtx_steps :
    look (exec (.mtx 0x68 false 0x20000000 1) { opened with pres := [⟨1, 0x80000001⟩] })
      (fun t => (t.mid.main, t.hist)) = some ([.rule (.mtx 0x68 false 0x20000000 1) 2], []) := by decide
/-- A reserved event word holds the stack against an event word presented with it (60 R207, R213). -/
theorem test_reserved_word_holds_the_stack :
    look (step { opened with pres := [⟨0, 0x43000300⟩, ⟨0, 0x40000100⟩] })
      (fun t => (t.stack, look (step t) (fun u => (u.stack, u.hist)))) =
      some ([.evh, .main], some ([.evh, .main], [])) := by decide
/-- A word may be presented between a refused input and the next one (42 R150; log 9). -/
theorem test_word_after_a_refused_input :
    look (step { opened with mainIn := [0x20000003, 0x12000000], pres := [⟨1, 0x41000200⟩] })
      (fun t => (t.refused, made (step t))) =
      some (some .illegalInput, some [.busClr .addr, .cb .addrMatch]) := by decide
theorem test_reserved_word_exits :
    look (step { opened with pres := [⟨0, 0x81000001⟩] }) (fun t => (t.stack, t.hist)) = some ([.main], []) := by decide
theorem test_error_waits_for_equal_priority :
    look (exec (.err 8) { receiving 1 with stack := [.evh, .main] }) (·.hist) = some [] := by decide

/-! ## Witnesses: states and operands that meet the hypotheses of each statement together -/

theorem test_witness_DecodeInvertsEncode : (Instr.flag 18).wf = true ∧
    (Instr.mtx 0x7F true 0xFFFFFFFF 0xFFFFFFFF).wf = true := by decide

theorem test_witness_FirstWordGivesLength :
    (portClass 0x100000FF = .command ∧ opcodeOf 0x100000FF = 0x10) ∧
    (portClass 0x11000168 = .command ∧ opcodeOf 0x11000168 = 0x11) ∧
    ¬(portClass 0x12000000 = .command ∧ (opcodeOf 0x12000000 = 0x10 ∨ opcodeOf 0x12000000 = 0x11)) ∧
    ¬(portClass 0x50000000 = .command ∧ (opcodeOf 0x50000000 = 0x10 ∨ opcodeOf 0x50000000 = 0x11)) := by decide

theorem test_witness_IllegalCommandsAreRefused : portClass 0x020004E1 = .command ∧
    let s := { boot with mainIn := [0x020004E1, 7] }
    s.fault = none ∧ s.due = false ∧ s.frames = [] ∧ s.top = .main ∧ s.mainIn = [0x020004E1, 7] ∧
      decode [0x020004E1, 7] = .illegal .reservedBit [7] := by decide

/-- An open callback of EVH whose next word is illegal: one with a reserved bit, and one of class 11. -/
def badCallback (w : Word) : State := { opened with
  stack := [.evh, .main], mid := ⟨[], [.callback .dataReq [w], .rule (.evTxe false true) 2], []⟩ }

theorem test_witness_IllegalCommandsAreRefused_app : let s := badCallback 0x18000177
    s.fault = none ∧ s.due = false ∧ decode [0x18000177] = .illegal .reservedBit [] ∧
      s.frames = [.callback .dataReq [0x18000177], .rule (.evTxe false true) 2] := by decide

theorem test_witness_ClassElevenSpellsNothing_app : let s := badCallback 0xC0000000
    portClass 0xC0000000 = .reserved ∧ s.fault = none ∧ s.due = false ∧
      s.frames = [.callback .dataReq [0xC0000000], .rule (.evTxe false true) 2] := by decide

theorem test_witness_ClassElevenSpellsNothing : portClass 0xFFFFFFFF = .reserved ∧
    (let s := { boot with mainIn := [0xFFFFFFFF] }
     s.fault = none ∧ s.due = false ∧ s.frames = [] ∧ s.top = .main ∧ s.mainIn = [0xFFFFFFFF]) ∧
    (let s := { boot with pres := [⟨0, 0xFFFFFFFF⟩] }
     s.fault = none ∧ s.pres = [⟨0, 0xFFFFFFFF⟩]) := by decide

/-- Reserved words presented alone and with another word at once, with the gates of the lines true, and one with them
false. -/
theorem test_witness_ReservedHardwareWordsDoNothing :
    (portClass 0x43000300 = .event ∧ ¬(opcodeOf 0x43000300 ∈ [0x00, 0x01, 0x02, 0x04, 0x06, 0x07])) ∧
    (portClass 0x81000001 = .error ∧ opcodeOf 0x81000001 ≠ 0) ∧
    (let s := { boot with pres := [⟨0, 0x43000300⟩] }
     s.fault = none ∧ s.pres = [⟨0, 0x43000300⟩] ∧ s.lineGate .ev = false ∧ s.lineGate .er = false) ∧
    (let s := { opened with pres := [⟨0, 0x43000300⟩] }
     s.fault = none ∧ s.lineGate .ev = true ∧ s.mayPreempt .ev = true ∧ { s with pres := [] }.due = false) ∧
    (let s := { opened with pres := [⟨0, 0x81000001⟩, ⟨0, 0x40000100⟩] }
     s.fault = none ∧ s.lineGate .er = true ∧ s.mayPreempt .er = true ∧
       { s with pres := [⟨0, 0x40000100⟩] }.due = true) ∧
    (portClass 0x47FFFFFF = .event ∧ (0x47FFFFFF : Word) &&& 0xFF000300 = 0x47000300 &&& 0xFF000300) ∧
    (portClass 0x80FFFFE1 = .error ∧ (0x80FFFFE1 : Word) &&& 0xFF00001F = 0x80000001 &&& 0xFF00001F) := by decide

theorem test_witness_StepRunsTheDecodedInput :
    (let s := { boot with mainIn := [0x10000068, 0x20000000, 2] }
     s.fault = none ∧ s.due = false ∧ s.frames = [] ∧ s.top = .main ∧
       decode s.mainIn = .instr (.mtx 0x68 false 0x20000000 2) [] ∧
       isCommand (.mtx 0x68 false 0x20000000 2) = true) ∧
    (let s := { opened with
      stack := [.evh, .main], mid := ⟨[], [.callback .dataReq [0x18000077], .rule (.evTxe false true) 2], []⟩ }
     s.fault = none ∧ s.due = false ∧
       s.frames = [.callback .dataReq [0x18000077], .rule (.evTxe false true) 2] ∧
       decode [0x18000077] = .instr (.stx 0x77) [] ∧ isCommand (.stx 0x77) = true) ∧
    (let s := { opened with pres := [⟨0, 0x47000300⟩] }
     s.fault = none ∧ s.pres = [⟨0, 0x47000300⟩] ∧ decode [0x47000300] = .instr (.evTxe true true) [] ∧
       isCommand (.evTxe true true) = false) := by decide

theorem test_witness_StepRunsWhatIsUnfinished :
    (let s := { boot with mid := ⟨[.rule .closetx 2], [], []⟩ }
     s.fault = none ∧ s.due = false ∧ s.frames = [.rule .closetx 2]) ∧
    (let s := { opened with
      stack := [.evh, .main], mid := ⟨[], [.callback .dataReq [], .rule (.evTxe false true) 2], []⟩ }
     s.fault = none ∧ s.due = false ∧ s.frames = [.callback .dataReq [], .rule (.evTxe false true) 2]) ∧
    (let s := { opened with stack := [.erh, .main] }
     s.fault = none ∧ s.due = false ∧ s.frames = [] ∧ s.top ≠ .main) := by decide

theorem test_witness_WordsOnTheWrongPortHaveNoMove :
    (let s := { boot with pres := [⟨0, 0x12000000⟩] }
     s.fault = none ∧ s.pres = [⟨0, 0x12000000⟩] ∧ portClass 0x12000000 = .command) ∧
    (let s := { boot with mainIn := [0x40000100] }
     s.fault = none ∧ s.due = false ∧ s.frames = [] ∧ s.top = .main ∧ portClass 0x40000100 = .event) ∧
    (let s := { opened with
      stack := [.evh, .main], mid := ⟨[], [.callback .stop [0x80000001], .rule (.evStopf false true) 3], []⟩ }
     s.fault = none ∧ s.due = false ∧ portClass 0x80000001 = .error ∧
       s.frames = [.callback .stop [0x80000001], .rule (.evStopf false true) 3]) := by decide

theorem test_witness_MarksAreNeverCleared :
    (∃ t, step { boot with refused := some .illegalInput, mainIn := [0x12000000] } = .next t) ∧
    ({ boot with fault := some .contextRace } : State).fault = some .contextRace ∧
    ∃ t, exec .closetx { boot with refused := some .illegalInput, fault := some .clockOff } = .next t :=
  ⟨⟨_, rfl⟩, rfl, ⟨_, rfl⟩⟩

theorem test_witness_ClockGateFaults : clockGated (.flag 17) = true ∧ State.reset.clken = false ∧
    isCommand (.irqpri .er 1) = true ∧ clockGated (.irqpri .er 1) = false := by decide

theorem test_witness_ContextRaceFaults : contextWriting .closetx = true ∧ contextWriting .deinit = true ∧
    midMtx.clken = true ∧ midMtx.stack.tail.any midMtx.midRule = true := by decide

/-- At the threshold of each speed. -/
theorem test_witness_InitProgramsThePeripheral :
    let s := { boot with launch := { boot.launch with pclkHz := 2000000 } }
    let f := { boot with launch := { boot.launch with pclkHz := 4000000 } }
    s.clken = true ∧ s.stack.tail.any s.midRule = false ∧ s.ctx.state = .ready ∧
      (if Speed.sm = .sm then 2000000 else 4000000) ≤ s.launch.pclkHz ∧ f.clken = true ∧
      f.stack.tail.any f.midRule = false ∧ f.ctx.state = .ready ∧
      (if Speed.fm = .sm then 2000000 else 4000000) ≤ f.launch.pclkHz := by decide

/-- Zero, and one below the threshold of each speed; and a state that replies 1. -/
theorem test_witness_InitRejectsASlowClock :
    (boot.clken = true ∧ boot.stack.tail.any boot.midRule = false ∧ boot.ctx.state = .ready) ∧
    (let z := { boot with launch := { boot.launch with pclkHz := 0 } }
     z.launch.pclkHz = 0) ∧
    (let s := { boot with launch := { boot.launch with pclkHz := 1999999 } }
     s.launch.pclkHz < 2000000 ∧ look (exec (.init 0x61 .sm .d2 true) s) (·.hist) = some [⟨s.top, .reply .init 1⟩]) ∧
    (let f := { boot with launch := { boot.launch with pclkHz := 3999999 } }
     f.launch.pclkHz < 4000000) := by decide

theorem test_witness_InitWhileBusyFaults : (sending 2 false).clken = true ∧
    (sending 2 false).stack.tail.any (sending 2 false).midRule = false ∧
    (sending 2 false).ctx.state ≠ .ready := by decide

theorem test_witness_DeinitResetsThePeripheral : (receiving 1).clken = true ∧
    (receiving 1).stack.tail.any (receiving 1).midRule = false := by decide

theorem test_witness_PeGcAndCbenWriteTheirFields : boot.clken = true := by decide

theorem test_witness_StxWritesTheDataRegister : (sending 2 false).clken = true := by decide

theorem test_witness_SrxRepliesADraw : (sending 2 false).clken = true := by decide

theorem test_witness_IrqpriKeepsTheImplementedBits : (8 : Nat) ≤ 8 ∧ (7 : Nat) < 8 := by decide

theorem test_witness_FlagRepliesADraw : flagIndexLegal 0 = true ∧ flagIndexLegal 18 = true ∧
    boot.clken = true := by decide

theorem test_witness_MtxStartsASend :
    let s := { boot with pres := [⟨5, 0x40000100⟩] }
    s.clken = true ∧ s.stack.tail.any s.midRule = false ∧ s.ctx.state = .ready ∧ s.quiet 4 = true := by decide

/-- The smallest length that is not 0, and 0. -/
theorem test_witness_MrxStartsAReceive :
    let s := { boot with pres := [⟨5, 0x40000100⟩] }
    s.clken = true ∧ s.stack.tail.any s.midRule = false ∧ s.ctx.state = .ready ∧ s.quiet 4 = true ∧
      (1 : Word) ≠ 0 ∧ (0 : Word) = 0 := by decide

theorem test_witness_BusyInitiationIsRejected :
    (let s := sending 2 false
     s.clken = true ∧ s.stack.tail.any s.midRule = false ∧ s.ctx.state ≠ .ready) ∧
    (let s := receiving 2
     s.clken = true ∧ s.stack.tail.any s.midRule = false ∧ s.ctx.state ≠ .ready) := by decide

theorem test_witness_InitiationInheritsAck :
    (∃ t, Runs (.mtx 0x68 false 0x20000000 2) boot t) ∧
    (∃ t, exec (.mrx 0x68 false 0x20000000 2) boot = .next t) ∧
    ∃ t, resume (.mrx 0x68 false 0x20000000 2) 4 boot = .next t :=
  ⟨⟨_, .inl rfl⟩, ⟨_, rfl⟩, _, rfl⟩

/-- A word due after each of the first four micro-steps. -/
theorem test_witness_MtxWaitsWhereAWordFallsDue :
    [1, 2, 3, 4].all (fun k =>
      let s := { boot with pres := [⟨k, 0x80000001⟩] }
      s.clken && !s.stack.tail.any s.midRule && s.ctx.state == .ready && s.quiet (k - 1) && !s.quiet k) = true := by
  decide

/-- A Close cut at its third micro-step, a BTF at its entry and at its fourth, and a receive's completion. -/
theorem test_witness_InterruptedRuleEndsTheSame :
    (isCommand .closetx = true ∧
      ∃ t u, exec .closetx { sending 2 false with pres := [⟨2, 0x43000000⟩] } = .next t ∧
        t.frames = .rule .closetx 3 :: (sending 2 false).frames ∧ t.fault = none ∧
        exec .closetx { sending 2 false with pres := [] } = .next u) ∧
    (isCommand (.evBtf true true) = false ∧ (∃ t u,
      exec (.evBtf true true) { sending 0 false with pres := [⟨0, 0x43000000⟩] } = .next t ∧
        t.stack = .evh :: (sending 0 false).stack ∧ t.frames = [.rule (.evBtf true true) 1] ∧ t.fault = none ∧
        exec (.evBtf true true) { sending 0 false with pres := [] } = .next u) ∧
      ∃ t, exec (.evBtf true true) { sending 0 false with pres := [⟨3, 0x43000000⟩] } = .next t ∧
        t.stack = .evh :: (sending 0 false).stack ∧ t.frames = [.rule (.evBtf true true) 4] ∧ t.fault = none) ∧
    (isCommand (.err 3) = false ∧ (∀ c ∈ [([] : List Word)], c = []) ∧ ∃ t u,
      exec (.err 3) { opened with pres := [], app := [[]] ++ [0x12000000] :: [] } = .next t ∧
        t.stack = .erh :: opened.stack ∧ t.frames = [.callback .errArlo [0x12000000], .rule (.err 3) 3] ∧
        exec (.err 3) { opened with pres := [], app := [[]] ++ [] :: [] } = .next u) :=
  ⟨⟨rfl, _, _, rfl, rfl, rfl, rfl⟩, ⟨rfl, ⟨_, _, rfl, rfl, rfl, rfl, rfl⟩, _, rfl, rfl, rfl, rfl⟩,
    rfl, by decide, _, _, rfl, rfl, rfl, rfl⟩

theorem test_witness_CloseRunsTheCloseSteps :
    let s := { receiving 3 with pres := [⟨4, 0x80000001⟩] }
    s.clken = true ∧ s.stack.tail.any s.midRule = false ∧ s.quiet 3 = true ∧ State.reset.clken = false ∧
      midMtx.stack.tail.any midMtx.midRule = true := by decide

theorem test_witness_CloseTwiceIsCloseOnce :
    let s := { receiving 3 with pres := [⟨8, 0x80000001⟩] }
    s.clken = true ∧ s.stack.tail.any s.midRule = false ∧ s.quiet 7 = true ∧
      ∃ t, exec .closerx s = .next t := ⟨rfl, by decide, by decide, _, rfl⟩

theorem test_witness_CloseEndsEventDelivery :
    (let s := { receiving 3 with pres := [⟨4, 0x80000001⟩] }
     s.clken = true ∧ s.stack.tail.any s.midRule = false ∧ s.quiet 3 = true ∧ ∃ t, exec .closetx s = .next t) ∧
    isCommand (.evTxe true true) = false ∧ ∀ f, Instr.evTxe true true ≠ .err f :=
  ⟨⟨rfl, by decide, by decide, _, rfl⟩, rfl, nofun⟩

theorem test_witness_UngatedWordsAreDiscarded :
    (State.reset.clken && State.reset.nvic.enEv && State.reset.ctl.itevten) = false ∧
    (let s := { opened with ctl := { opened.ctl with itbufen := false } }
     (s.clken && s.nvic.enEv && s.ctl.itevten && s.ctl.itbufen) = false) ∧
    (boot.clken && boot.nvic.enEr && boot.ctl.iterren) = false ∧
    ({ opened with stack := [.evh, .main] } : State).mayPreempt .ev = false ∧
    ({ opened with stack := [.evh, .main] } : State).mayPreempt .er = false := by decide

theorem test_witness_PreemptionNeedsStrictPriority :
    handlerOf .ev ∈ ({ opened with stack := [.evh, .main] } : State).stack ∧
    (handlerOf .er ∉ opened.stack ∧ opened.top = .main) ∧
    (let s := { opened with stack := [.evh, .main] }
     .erh ∉ s.stack ∧ s.top = .evh) ∧
    (let s := { opened with stack := [.erh, .main] }
     .evh ∉ s.stack ∧ s.top = .erh) := by decide

theorem test_witness_HandlerEntrySavesNothing :
    let s := { opened with pres := [⟨0, 0x80000001⟩] }
    s.due = true ∧ eventStarts s false ∧ eventStarts s true ∧ errorStarts s :=
  ⟨rfl, ⟨rfl, rfl⟩, ⟨rfl, rfl⟩, rfl, rfl⟩

theorem test_witness_SbWritesTheAddressByte :
    let s := { receiving 1 with pres := [⟨2, 0x80000001⟩] }
    eventStarts s false ∧ s.quiet 1 = true := ⟨⟨rfl, rfl⟩, by decide⟩

/-- One byte left, and two. -/
theorem test_witness_AddrDisablesAckBeforeTheClear :
    (let s := { receiving 1 with pres := [⟨3, 0x80000001⟩] }
     eventStarts s false ∧ s.quiet 2 = true ∧ (s.ctx.state = .busyRx ∧ s.ctx.rem = 1)) ∧
    (eventStarts (receiving 2) false ∧ (receiving 2).quiet 2 = true ∧
      ¬((receiving 2).ctx.state = .busyRx ∧ (receiving 2).ctx.rem = 1)) :=
  ⟨⟨⟨rfl, rfl⟩, by decide⟩, ⟨rfl, rfl⟩, by decide⟩

theorem test_witness_AddrAndStopfClearTheirFlag :
    let s := { opened with pres := [⟨3, 0x80000001⟩], app := [[], [0x18000077]] }
    eventStarts s false ∧ s.quiet 2 = true ∧ s.appCommands = [] := ⟨⟨rfl, rfl⟩, by decide⟩

theorem test_witness_BtfCompletesASend :
    let s := { sending 0 true with pres := [⟨7, 0x80000001⟩] }
    eventStarts s false ∧ s.quiet 6 = true ∧ s.appCommands = [] ∧ s.ctx.state = .busyTx ∧ s.ctx.rem = 0 :=
  ⟨⟨rfl, rfl⟩, by decide⟩

theorem test_witness_RxneStoresAByte :
    let s := receiving 2
    eventStarts s true ∧ s.quiet 2 = true ∧ s.ctx.state = .busyRx ∧ 2 ≤ s.ctx.rem.toNat ∧
      s.admits s.ctx.buf = true := ⟨⟨rfl, rfl⟩, by decide⟩

theorem test_witness_RxneCompletesAReceive :
    let s := { receiving 1 with pres := [⟨8, 0x80000001⟩] }
    eventStarts s true ∧ s.quiet 7 = true ∧ s.appCommands = [] ∧ s.ctx.state = .busyRx ∧ s.ctx.rem = 1 ∧
      s.admits s.ctx.buf = true := ⟨⟨rfl, rfl⟩, by decide⟩

theorem test_witness_RxneUnderflowFaults :
    eventStarts (receiving 0) true ∧ (receiving 0).due = false ∧ (receiving 0).ctx.state = .busyRx ∧
      (receiving 0).ctx.rem = 0 := ⟨⟨rfl, rfl⟩, by decide⟩

theorem test_witness_TxeSendsAByte :
    let s := { sending 1 false with pres := [⟨2, 0x80000001⟩] }
    eventStarts s true ∧ s.quiet 1 = true ∧ s.ctx.state = .busyTx ∧ s.ctx.rem ≠ 0 ∧ s.admits s.ctx.buf = true :=
  ⟨⟨rfl, rfl⟩, by decide⟩

theorem test_witness_SlaveDataEventsReachApp :
    eventStarts opened true ∧ opened.quiet 1 = true ∧ opened.appCommands = [] := ⟨⟨rfl, rfl⟩, by decide⟩

/-- Slave events; a send and a receive that complete; the highest flag of ERR alone, and a flag reached resumed. -/
theorem test_witness_CallbackOpensForCommands :
    (let s := { opened with app := [[0x18000077]], pres := [⟨2, 0x80000001⟩] }
     s.appCommands = [0x18000077] ∧ eventStarts s true ∧ s.due = false ∧ eventStarts s false ∧ s.quiet 1 = true) ∧
    (let s := { sending 0 true with app := [[0x18000077]], pres := [⟨6, 0x80000001⟩] }
     s.appCommands = [0x18000077] ∧ eventStarts s false ∧ s.quiet 5 = true ∧ s.ctx.state = .busyTx ∧ s.ctx.rem = 0) ∧
    (let s := { receiving 1 with app := [[0x18000077]], pres := [⟨7, 0x80000001⟩] }
     s.appCommands = [0x18000077] ∧ eventStarts s true ∧ s.quiet 6 = true ∧ s.ctx.state = .busyRx ∧ s.ctx.rem = 1 ∧
       s.admits s.ctx.buf = true) ∧
    (let s := { opened with app := [[0x18000077]], pres := [⟨5, 0x40000100⟩] }
     errorOfBit 4 = some (.timeout, .errTimeout) ∧ (0x10 : BitVec 5).getLsbD 4 = true ∧ errorStarts s ∧
       s.quiet 4 = true ∧ ∀ m, m < 4 → (0x10 : BitVec 5).getLsbD m = false) ∧
    (let s := { opened with stack := [.erh, .main], app := [[0x18000077]] }
     s.appCommands = [0x18000077] ∧ errorOfBit 0 = some (.berr, .errBerr) ∧ (0x1F : BitVec 5).getLsbD 0 = true ∧
       s.top = .erh ∧ s.frames = []) ∧
    (lastStep (.evBtf true true) < 7 ∧ ∃ f, Instr.err 1 = .err f) :=
  ⟨⟨rfl, ⟨rfl, rfl⟩, rfl, ⟨rfl, rfl⟩, rfl⟩, ⟨rfl, ⟨rfl, rfl⟩, by decide⟩, ⟨rfl, ⟨rfl, rfl⟩, by decide⟩,
    ⟨rfl, rfl, ⟨rfl, rfl⟩, by decide⟩, ⟨rfl, rfl, rfl, rfl, rfl⟩, by decide, 1, rfl⟩

theorem test_witness_UnexpectedEventsDoNothing :
    (eventStarts (sending 1 false) false ∧ (sending 1 false).quiet 1 = true ∧
      ¬((sending 1 false).ctx.state = .busyTx ∧ (sending 1 false).ctx.rem = 0)) ∧
    (eventStarts opened false ∧ eventStarts opened true ∧ opened.ctx.state = .ready ∧
      opened.ctx.state ≠ .busyRx) ∧
    (eventStarts (sending 0 false) true ∧
      ¬((sending 0 false).ctx.state = .busyTx ∧ (sending 0 false).ctx.rem ≠ 0)) :=
  ⟨⟨⟨rfl, rfl⟩, by decide⟩, ⟨⟨rfl, rfl⟩, ⟨rfl, rfl⟩, by decide⟩, ⟨rfl, rfl⟩, by decide⟩

/-- Just above the admitted range, sending and receiving, with and without a word still to be presented. -/
theorem test_witness_UnadmittedAccessIsStuck :
    (let s := { sending 1 false with ctx := ⟨.busyTx, 0x20000200, 1, 0x68, false⟩ }
     eventStarts s true ∧ s.due = false ∧ s.admits s.ctx.buf = false ∧ s.ctx.state = .busyTx ∧ s.ctx.rem ≠ 0 ∧
       s.pres = []) ∧
    (let s := { receiving 1 with ctx := ⟨.busyRx, 0x20000200, 1, 0x50, false⟩, pres := [⟨1, 0x80000001⟩] }
     eventStarts s true ∧ s.due = false ∧ s.admits s.ctx.buf = false ∧ s.ctx.state = .busyRx ∧ s.ctx.rem ≠ 0 ∧
       s.pres ≠ []) := ⟨⟨⟨rfl, rfl⟩, by decide⟩, ⟨rfl, rfl⟩, by decide⟩

theorem test_witness_SlaveEngineHasNoState :
    (∃ (tra : Bool) (v : Byte), Instr.evTxe false true = .evAddr false tra ∨
      Instr.evTxe false true = .evTxe false tra ∨ Instr.evTxe false true = .stx v) ∧
    (∃ t, Runs (.evTxe false true) { opened with app := [[0x18000077]] } t) ∧
    ∃ t, callbackReturn (.evTxe false true) 2 { opened with stack := [.evh, .main] } = .next t :=
  ⟨⟨true, 0, .inr (.inl rfl)⟩, ⟨_, .inl rfl⟩, _, rfl⟩

/-- All five flags, with APP's lists of the five callbacks empty and a sixth that is not. -/
theorem test_witness_ErrReportsEachFlagOnce :
    let s := { opened with app := [[], [], [], [], [], [0x12000000]], pres := [⟨6, 0x40000100⟩] }
    errorStarts s ∧ s.quiet 5 = true ∧ ∀ cs ∈ s.app.take (errorCallbacksFrom 0x1F 0), cs = [] :=
  ⟨⟨rfl, rfl⟩, by decide, by decide⟩

/-- The four callbacks after the first one empty and a fifth that is not, in the state a Close in the first leaves; and
after the last pair. -/
theorem test_witness_ErrReportsEachFlagOnce_after :
    let s := { opened with
      stack := [.erh, .main], ctl := { opened.ctl with itevten := false, itbufen := false }
      app := [[], [], [], [], [0x12000000]], pres := [⟨6, 0x40000100⟩] }
    s.top = .erh ∧ (∀ cs ∈ s.app.take (errorCallbacksFrom 0x1F 1), cs = []) ∧ s.quiet (6 - 1) = true ∧
      (∀ cs ∈ s.app.take (errorCallbacksFrom 0x1F 5), cs = []) ∧ s.quiet (6 - 5) = true ∧ s.quiet (5 - 4) = true ∧
      (∀ cs ∈ ({ s with app := [] } : State).app.take (errorCallbacksFrom 0x1F 0), cs = []) ∧ s.quiet (5 - 0) = true := by
  decide

/-- Two flags, with a Close in the callback of the first: the second pair is still made (44 R175). -/
theorem test_err_goes_on_after_a_close :
    made (callbackReturn (.err 3) 2 { sending 2 false with
      stack := [.erh, .main], ctl := { opened.ctl with itevten := false, itbufen := false } }) =
      some [.busClr .arlo, .cb .errArlo] := by decide

theorem test_witness_ErrLeavesTheTransfer :
    (∃ t, Runs (.err 1) { sending 2 false with app := [[0x12000000]] } t) ∧
    ∃ t, callbackReturn (.err 1) 2 { sending 2 false with stack := [.erh, .main] } = .next t :=
  ⟨⟨_, .inl rfl⟩, _, rfl⟩

theorem test_witness_StepKeepsShape : stackLegal midMtx.stack = true ∧
    ([.main, .evh, .erh].all fun c => framesLegal c (midMtx.mid.get c) && offStackEmpty midMtx c) = true ∧
    Memory.wf midMtx.mem = true ∧ ∃ t, step midMtx = .next t := ⟨by decide, by decide, by decide, _, rfl⟩

theorem test_witness_NothingReadsPe : (∀ en, Instr.closetx ≠ .pe en) ∧ Instr.closetx ≠ .deinit :=
  ⟨nofun, nofun⟩

theorem test_witness_OneWriterForEachPlumbingField :
    (∃ t, Runs .closetx boot t) ∧ (∃ t, resume .closetx 2 boot = .next t) ∧ (∀ en, Instr.closetx ≠ .clk en) ∧
    (∀ l en, Instr.closetx ≠ .irqen l en) ∧ (∀ l p, Instr.closetx ≠ .irqpri l p) ∧
    (∀ own sp du a, Instr.closetx ≠ .init own sp du a) ∧ Instr.closetx ≠ .deinit :=
  ⟨⟨_, .inl rfl⟩, ⟨_, rfl⟩, nofun, nofun, nofun, nofun, nofun⟩

theorem test_witness_WhoMovesTheTransferState :
    (∃ t, Runs (.mtx 0x68 false 0x20000000 2) boot t ∧ t.ctx.state ≠ boot.ctx.state ∧
      t.ctx.state = .busyTx) ∧
    (∃ t, Runs (.mrx 0x68 false 0x20000000 2) boot t ∧ t.ctx.state ≠ boot.ctx.state ∧
      t.ctx.state = .busyRx) ∧
    (∃ t, resume .closerx 4 (receiving 1) = .next t ∧ t.ctx.state ≠ (receiving 1).ctx.state ∧
      t.ctx.state = .ready) ∧
    ∃ t, callbackReturn .closerx 4 (receiving 1) = .next t ∧ t.ctx.state ≠ (receiving 1).ctx.state :=
  ⟨⟨_, .inl rfl, by decide, rfl⟩, ⟨_, .inl rfl, by decide, rfl⟩, ⟨_, rfl, by decide, rfl⟩, _, rfl, by decide⟩

/-- Begun, and resumed at micro-step 1 after a wait at its entry. -/
theorem test_witness_OnlyReceiveWritesMemory :
    (∃ t, Runs (.evRxne true false) (receiving 2) t) ∧
    (∃ t, resume (.evRxne true false) 1 { receiving 2 with stack := [.evh, .main] } = .next t) ∧
    Memory.wf (receiving 2).mem = true ∧ (0x20000101 : Nat) ≠ (receiving 2).ctx.buf.toNat ∧
    (∃ t, Runs (.evTxe true true) (sending 1 false) t) ∧ ∀ tra, Instr.evTxe true true ≠ .evRxne true tra :=
  ⟨⟨_, .inl rfl⟩, ⟨_, rfl⟩, by decide, by decide, ⟨_, .inl rfl⟩, nofun⟩

theorem test_witness_RxUnderflowIsUnreachable :
    ∃ t, Sys2Proof.core.run 0 { State.reset with mainIn := [], pres := [], app := [] } = .next t := ⟨_, rfl⟩

end Sys2Proof.Tests
end

section
/-! SUPPORT. The micro-steps of every rule taken together: a change of the state that none of them sees, a property
of the state that all of them keep, and where a rule goes on after each (spec 40 to 45). -/

namespace Sys2Proof.Machine

/-- A micro-step with the state it leaves, where it leaves one, changed by `f`. -/
def Micro.map (f : State → State) : Micro → Micro
  | .go k s => .go k (f s)
  | .done s => .done (f s)
  | .emit ev k s => .emit ev k (f s)
  | .raise c => .raise c
  | .stuck a => .stuck a

/-- A change `f` of the state that no micro-step sees: it leaves every field a micro-step reads as it is, and it
commutes with every write of a micro-step. -/
structure Blind (f : State → State) : Prop where
  ctx : ∀ s, (f s).ctx = s.ctx
  cfg : ∀ s, (f s).cfg = s.cfg
  ctl : ∀ s, (f s).ctl = s.ctl
  nvic : ∀ s, (f s).nvic = s.nvic
  mem : ∀ s, (f s).mem = s.mem
  launch : ∀ s, (f s).launch = s.launch
  draws : ∀ s, (f s).draws = s.draws
  record : ∀ s a, (f s).record a = f (s.record a)
  ctlWrite : ∀ s c l v, (f s).ctlWrite c l v = f (s.ctlWrite c l v)
  setCtx : ∀ s c, (f s).setCtx c = f (s.setCtx c)
  setCfg : ∀ s c, (f s).setCfg c = f (s.setCfg c)
  setClken : ∀ s en v, (f s).setClken en v = f (s.setClken en v)
  nvicWrite : ∀ s n l v, (f s).nvicWrite n l v = f (s.nvicWrite n l v)
  memWrite : ∀ s a v, (f s).memWrite a v = f (s.memWrite a v)
  drawn : ∀ s, (f s).drawn = f s.drawn
  refuse : ∀ s, (f s).refuse = f s.refuse

section Blind

variable {f : State → State} (hf : Blind f) (s : State)
include hf

theorem Blind.admits (a : Word) : (f s).admits a = s.admits a := by simp only [State.admits, hf.launch]

theorem Blind.closeStep (k : Nat) : (f s).closeStep k = f (s.closeStep k) := by
  unfold State.closeStep
  split <;> simp only [hf.ctx, hf.cfg, hf.ctl, hf.ctlWrite, hf.setCtx]

theorem Blind.enableSources (en : Bool) : (f s).enableSources en = f (s.enableSources en) := by
  simp only [State.enableSources, hf.ctl, hf.ctlWrite]

theorem Blind.program (own : BitVec 7) (speed : Speed) (duty : Duty) (ack : Bool) :
    (f s).program own speed duty ack = f (s.program own speed duty ack) := by
  simp only [State.program, hf.ctl, hf.launch, hf.setCfg, hf.ctlWrite]

theorem Blind.initiate (op : ReplyOp) (busy : TransferState) (dev : BitVec 7) (sr : Bool) (buf len : Word) (k : Nat) :
    (f s).initiate op busy dev sr buf len k = f (s.initiate op busy dev sr buf len k) := by
  unfold State.initiate
  split <;> simp only [hf.ctx, hf.setCtx, hf.enableSources, hf.record]

theorem Blind.receiveByte : (f s).receiveByte = f s.receiveByte := by
  simp only [State.receiveByte, hf.ctx, hf.ctl, hf.ctlWrite]
  split <;>
    simp only [State.busDrr_fst, State.busDrr_snd, hf.ctx, hf.draws, hf.drawn, hf.record, hf.memWrite, hf.setCtx]

theorem Blind.sendByte : (f s).sendByte = f s.sendByte := by
  simp only [State.sendByte, State.memRead_fst, State.memRead_snd, hf.ctx, hf.mem, hf.record, hf.setCtx]

/-- No micro-step of any rule sees a blind change. -/
theorem microOf_blind (i : Instr) (k : Nat) : microOf i k (f s) = (microOf i k s).map f := by
  cases i with
  | clk en => simp only [microOf, microClk, Micro.map, hf.setClken]
  | init own speed duty ack =>
    simp only [microOf, microInit, hf.ctx, hf.launch, hf.record, hf.program]
    split_ifs <;> rfl
  | deinit => simp only [microOf, microDeinit, Micro.map, hf.ctlWrite, hf.setCfg, hf.setCtx]
  | pe en => simp only [microOf, microPe, Micro.map, hf.ctl, hf.ctlWrite]
  | gc en => simp only [microOf, microGc, Micro.map, hf.ctl, hf.ctlWrite]
  | cben en => simp only [microOf, microCben, Micro.map, hf.enableSources]
  | irqen line en => simp only [microOf, microIrqen, Micro.map, hf.nvic, hf.nvicWrite]
  | irqpri line prio => simp only [microOf, microIrqpri, Micro.map, hf.nvic, hf.launch, hf.nvicWrite]
  | mtx dev sr buf len =>
    simp only [microOf, microMtx, hf.ctx, hf.record, hf.initiate]
    split_ifs <;> rfl
  | mrx dev sr buf len =>
    simp only [microOf, microMrx, hf.ctx, hf.record, hf.initiate]
    split_ifs <;> rfl
  | closetx => simp only [microOf, microClose, Micro.map, hf.closeStep]
  | closerx => simp only [microOf, microClose, Micro.map, hf.closeStep]
  | stx value => simp only [microOf, microStx, Micro.map, hf.record]
  | srx =>
    simp only [microOf, microSrx, Micro.map, State.busDrr_fst, State.busDrr_snd, hf.draws, hf.drawn, hf.record]
  | flag index =>
    simp only [microOf, microFlag, State.flagDraw_fst, State.flagDraw_snd, hf.draws, hf.drawn, hf.record, hf.refuse]
    split_ifs <;> rfl
  | evSb msl tra =>
    simp only [microOf, microSb, hf.ctx, hf.record]
    split <;> rfl
  | evAddr msl tra =>
    simp only [microOf, microAddr, hf.ctx, hf.ctl, hf.record, hf.ctlWrite]
    split_ifs <;> rfl
  | evBtf msl tra =>
    simp only [microOf, microBtf, hf.ctx, hf.record, hf.closeStep]
    split_ifs <;> rfl
  | evStopf msl tra =>
    simp only [microOf, microStopf, hf.record]
    split_ifs <;> rfl
  | evRxne msl tra =>
    simp only [microOf, microRxne, hf.ctx, hf.admits, hf.record, hf.receiveByte, hf.closeStep]
    split_ifs <;> rfl
  | evTxe msl tra =>
    simp only [microOf, microTxe, hf.ctx, hf.admits, hf.sendByte]
    split_ifs <;> rfl
  | err flags =>
    simp only [microOf, microErr, hf.record]
    split
    · split_ifs <;> rfl
    · rfl

end Blind

end Sys2Proof.Machine
end

section
/-! SUPPORT. Running a rule, and a step, under a change of the state that the bookkeeping does not see: the answer
is the same, with its next state changed (spec 00 R9, 60 R229). -/

namespace Sys2Proof.Machine

/-- A change `f` of the state that the bookkeeping of running a rule does not see: it leaves what the bookkeeping
reads as it is, and it commutes with all the bookkeeping writes (the writes of `Kept`). -/
structure RunBlind (f : State → State) : Prop where
  clken : ∀ s, (f s).clken = s.clken
  nvic : ∀ s, (f s).nvic = s.nvic
  stack : ∀ s, (f s).stack = s.stack
  mid : ∀ s, (f s).mid = s.mid
  pres : ∀ s, (f s).pres = s.pres
  app : ∀ s, (f s).app = s.app
  elapsed : ∀ s k, (f s).elapsed k = f (s.elapsed k)
  setFrames : ∀ s fs, (f s).setFrames fs = f (s.setFrames fs)
  raise : ∀ s c, (f s).raise c = f (s.raise c)
  callback : ∀ s ev, ((f s).record (.cb ev)).appTaken = f (s.record (.cb ev)).appTaken
  enter : ∀ s h, (f s).enter h = f (s.enter h)
  leave : ∀ s, (f s).leave = f s.leave

section RunBlind

variable {f : State → State} (hf : RunBlind f) (s : State)
include hf

theorem RunBlind.top : (f s).top = s.top := by simp only [State.top, hf.stack]

theorem RunBlind.frames : (f s).frames = s.frames := by simp only [State.frames, hf.mid, hf.top]

theorem RunBlind.due : (f s).due = s.due := by simp only [State.due, hf.pres]

theorem RunBlind.quiet (k : Nat) : (f s).quiet k = s.quiet k := by simp only [State.quiet, hf.pres]

theorem RunBlind.appCommands : (f s).appCommands = s.appCommands := by simp only [State.appCommands, hf.app]

theorem RunBlind.suspend (i : Instr) (k : Nat) : (f s).suspend i k = f (s.suspend i k) := by
  simp only [State.suspend, hf.frames, hf.setFrames]

theorem RunBlind.mayPreempt (l : Line) : (f s).mayPreempt l = s.mayPreempt l := by
  simp only [State.mayPreempt, hf.stack, hf.top, hf.nvic]

theorem RunBlind.midRule : (f s).midRule = s.midRule := by
  funext c; simp only [State.midRule, hf.mid]

theorem RunBlind.clockGuard : (f s).clockGuard = s.clockGuard := by simp only [State.clockGuard, hf.clken]

theorem RunBlind.contextGuard : (f s).contextGuard = s.contextGuard := by
  rw [State.contextGuard, State.contextGuard, hf.clken, hf.stack, hf.midRule]

theorem guardOf_map (i : Instr) : guardOf i (f s) = guardOf i s := by
  unfold guardOf
  rw [hf.clockGuard, hf.contextGuard]

theorem ruleEnded_map (i : Instr) : ruleEnded i (f s) = mapNext f (ruleEnded i s) := by
  simp only [ruleEnded, hf.due, State.elapse_eq, hf.leave, hf.elapsed]
  split <;> rfl

theorem proceed_map {i : Instr} {rest : Nat → State → Answer} {k : Nat}
    (hrest : ∀ k s, rest k (f s) = mapNext f (rest k s)) :
    proceed i rest k (f s) = mapNext f (proceed i rest k s) := by
  by_cases hk : lastStep i < k
  · rw [proceed_ended _ _ _ _ hk, proceed_ended _ _ _ _ hk, hf.elapsed, ruleEnded_map hf]
  · have hk := Nat.not_lt.mp hk
    cases hq : s.quiet 1 with
    | true =>
      rw [proceed_quiet _ _ _ _ hk hq, proceed_quiet _ _ _ _ hk ((hf.quiet s 1).trans hq), hf.elapsed, hrest]
    | false =>
      rw [proceed_due _ _ _ _ hk hq, proceed_due _ _ _ _ hk ((hf.quiet s 1).trans hq), hf.elapsed, hf.suspend]
      rfl

theorem emitted_map {i : Instr} {rest : Nat → State → Answer} {ev : AppEvent} {k : Nat}
    (hrest : ∀ k s, rest k (f s) = mapNext f (rest k s)) :
    emitted i rest ev k (f s) = mapNext f (emitted i rest ev k s) := by
  simp only [emitted, hf.appCommands, hf.callback, proceed_map hf _ hrest, hf.suspend, hf.frames, hf.setFrames]
  split <;> rfl

theorem stuckAt_map (i : Instr) (k : Nat) (a : Word) : stuckAt i k a (f s) = mapNext f (stuckAt i k a s) := by
  simp only [stuckAt, hf.pres, hf.suspend, State.elapse_eq, hf.elapsed]
  split <;> rfl

theorem runRule_map {i : Instr} {micro : Nat → State → Micro}
    (hmicro : ∀ k s, micro k (f s) = (micro k s).map f) (n k : Nat) :
    runRule i micro n k (f s) = mapNext f (runRule i micro n k s) := by
  induction n generalizing k s with
  | zero => simp only [runRule, hf.suspend, mapNext]
  | succ n ih =>
    rw [runRule_succ, runRule_succ, hmicro]
    cases micro k s with
    | go k1 s1 => exact proceed_map hf s1 fun k s => ih s k
    | done s1 => simp only [Micro.map, State.elapse_eq, hf.elapsed, ruleEnded_map hf]
    | emit ev k1 s1 => exact emitted_map hf s1 fun k s => ih s k
    | raise c => simp only [Micro.map, hf.suspend, hf.raise, mapNext]
    | stuck a => exact stuckAt_map hf s i k a

theorem runCommand_map {i : Instr} {guard : Option FaultCode} {micro : Nat → State → Micro}
    (hmicro : ∀ k s, micro k (f s) = (micro k s).map f) :
    runCommand i guard micro (f s) = mapNext f (runCommand i guard micro s) := by
  cases guard with
  | some c => simp only [runCommand, hf.raise, mapNext]
  | none => exact runRule_map hf s hmicro _ _

theorem runHandler_map {i : Instr} {l : Line} {gate : Bool} {micro : Nat → State → Micro}
    (hmicro : ∀ k s, micro k (f s) = (micro k s).map f) :
    runHandler i l gate micro (f s) = mapNext f (runHandler i l gate micro s) := by
  simp only [runHandler, hf.mayPreempt, hf.due, hf.enter, hf.suspend, runRule_map hf _ hmicro]
  split_ifs <;> rfl

/-- Executing an input whose gate and micro-steps do not see the change. -/
theorem exec_map {i : Instr} (hgate : gateOf i (f s) = gateOf i s)
    (hmicro : ∀ k s, microOf i k (f s) = (microOf i k s).map f) : exec i (f s) = mapNext f (exec i s) := by
  cases hc : isCommand i with
  | true => rw [exec_command i _ hc, exec_command i _ hc, guardOf_map hf, runCommand_map hf s hmicro]
  | false => rw [exec_handler i _ hc, exec_handler i _ hc, hgate, runHandler_map hf s hmicro]

theorem resume_map {i : Instr} {k : Nat} (hmicro : ∀ k s, microOf i k (f s) = (microOf i k s).map f) :
    resume i k (f s) = mapNext f (resume i k s) :=
  runRule_map hf s hmicro _ _

theorem callbackReturn_map {i : Instr} {k : Nat} (hmicro : ∀ k s, microOf i k (f s) = (microOf i k s).map f) :
    callbackReturn i k (f s) = mapNext f (callbackReturn i k s) :=
  proceed_map hf s fun k s => runRule_map hf s hmicro _ k

theorem runReserved_map {l : Line} (hgate : (f s).lineGate l = s.lineGate l) :
    runReserved l (f s) = mapNext f (runReserved l s) := by
  simp only [runReserved, hgate, hf.mayPreempt, hf.due, hf.enter, hf.leave, State.elapse_eq, hf.elapsed]
  split_ifs <;> rfl

end RunBlind

end Sys2Proof.Machine
end

section
/-! SUPPORT. The history is appended to and never read (spec 00 R10). -/

namespace Sys2Proof.Machine

/-- The state with the records `h` in front of its history. -/
def State.preceded (h : List Record) (s : State) : State := { s with hist := h ++ s.hist }

/-- A next move with the state in it changed by `f`. -/
def Fetched.map (f : State → State) : Fetched → Fetched
  | .exec i s => .exec i (f s)
  | .answer a => .answer (mapNext f a)

section Preceded

variable (h : List Record) (s : State)

/-- No micro-step reads the history. -/
theorem blind_preceded : Blind (State.preceded h) := by
  constructor <;> intros <;>
    simp [State.preceded, State.record, State.ctlWrite, State.setCtx, State.setCfg, State.setClken, State.nvicWrite,
      State.memWrite, State.drawn, State.refuse, State.top]

/-- The bookkeeping does not read the history. -/
theorem runBlind_preceded : RunBlind (State.preceded h) := by
  constructor <;> intros <;>
    simp [State.preceded, State.record, State.elapsed, State.setFrames, State.raise, State.appTaken, State.enter,
      State.leave, State.top]

theorem gateOf_preceded (i : Instr) : gateOf i (s.preceded h) = gateOf i s := by cases i <;> rfl

theorem lineGate_preceded (l : Line) : (s.preceded h).lineGate l = s.lineGate l := by cases l <;> rfl

theorem mover_preceded : (s.preceded h).mover = s.mover := rfl

theorem fetchInput_preceded (a : Agent) (w : Word) (ws : List Word) (put : List Word → State) :
    fetchInput a w ws (fun rest => (put rest).preceded h) = (fetchInput a w ws put).map (State.preceded h) := by
  cases ha : a.issues (portClass w) with
  | false => rw [fetchInput_off ha, fetchInput_off ha]; rfl
  | true =>
    cases hd : decode (w :: ws) with
    | instr i rest => rw [fetchInput_instr ha hd, fetchInput_instr ha hd]; rfl
    | ignored rest =>
      rw [fetchInput_ignored ha hd, fetchInput_ignored ha hd,
        runReserved_map (runBlind_preceded h) _ (lineGate_preceded h _ _)]
      rfl
    | illegal why rest => rw [fetchInput_illegal ha hd, fetchInput_illegal ha hd]; rfl

/-- The running context's own move, for each shape of what it has begun. -/
theorem fetchOwn_preceded : fetchOwn (s.preceded h) = (fetchOwn s).map (State.preceded h) := by
  have hfr : (s.preceded h).frames = s.frames := rfl
  have hb := runBlind_preceded h
  have hmicro := fun i k s => microOf_blind (blind_preceded h) s i k
  simp only [fetchOwn, hfr]
  split
  · exact congrArg Fetched.answer (resume_map hb (s.setFrames _) (hmicro _))
  · exact fetchInput_preceded h .app _ _ fun rest => s.setFrames (.callback _ rest :: _)
  · exact congrArg Fetched.answer (callbackReturn_map hb (s.setFrames _) (hmicro _))
  · rfl
  · rw [hb.top]
    split
    · rfl
    · rfl
    · have hm : (s.preceded h).mainIn = s.mainIn := rfl
      rw [hm]
      split
      · rfl
      · exact fetchInput_preceded h .main _ _ fun rest => { s with mainIn := rest }

/-- The next move, for each agent that may take it. -/
theorem fetch_preceded : fetch (s.preceded h) = (fetch s).map (State.preceded h) := by
  have hfault : (s.preceded h).fault = s.fault := rfl
  have hpres : (s.preceded h).pres = s.pres := rfl
  simp only [fetch, hfault, hpres, mover_preceded]
  split
  · rfl
  · split
    · next ps _ _ => exact fetchInput_preceded h .periph _ _ fun _ => { s with pres := ps }
    · exact fetchOwn_preceded h s

end Preceded

/-- Settles O55: no move reads the history, and neither does the meaning of the input it executes. -/
theorem historyIsAppendedAndNeverRead : Obligations.HistoryIsAppendedAndNeverRead := by
  intro s h
  change step (s.preceded h) = mapNext (State.preceded h) (step s)
  rw [step, step, fetch_preceded]
  cases fetch s with
  | exec i t =>
    have hmicro k s := microOf_blind (blind_preceded h) s i k
    exact exec_map (runBlind_preceded h) t (gateOf_preceded h t i) hmicro
  | answer a => rfl

end Sys2Proof.Machine
end

section
/-! SUPPORT. A rule whose micro-steps each go on to the next one: where it stands after some of them, and where a word
that falls due makes it wait (spec 00 R9, 60 R210); MTX as such a rule (41 R130). -/

namespace Sys2Proof.Machine

/-- The state after micro-steps 1 to `k` of a rule whose micro-step `n` writes `write n`, each taking a moment. -/
def State.after (s : State) (write : Nat → State → State) : Nat → State
  | 0 => s
  | k + 1 => (write (k + 1) (s.after write k)).elapsed 1

section Straight

variable {i : Instr} {micro : Nat → State → Micro} {write : Nat → State → State} {s : State} {j : Nat}
  (hpres : ∀ k t, (write k t).pres = t.pres)
include hpres

theorem State.after_pres (k : Nat) : (s.after write k).pres = afterSteps k s.pres := by
  induction k with
  | zero => cases h : s.pres <;> simp [State.after, afterSteps, h]
  | succ k ih => simp [State.after, hpres, ih]

/-- One micro-step on, it is quiet exactly where it was quiet for one moment more from the start. -/
theorem State.write_after_quiet (hq : s.quiet j = true) :
    (write (j + 1) (s.after write j)).quiet 1 = s.quiet (j + 1) := by
  rw [← State.elapsed_quiet 1 hq, State.quiet, State.quiet, hpres, State.after_pres hpres, State.elapsed_pres]

/-- With no word due the rule comes to stand at micro-step `j + 1`. -/
theorem runRule_reaches (n : Nat) (hj : j < lastStep i) (hq : s.quiet j = true)
    (hgo : ∀ k < j, micro (k + 1) (s.after write k) = .go (k + 2) (write (k + 1) (s.after write k))) :
    runRule i micro (n + j) 1 s = runRule i micro n (j + 1) (s.after write j) := by
  induction j generalizing n with
  | zero => rfl
  | succ j ih =>
    have hqj : s.quiet j = true := State.quiet_mono (Nat.le_succ j) hq
    have hq1 := (State.write_after_quiet hpres hqj).trans hq
    have hfuel : n + (j + 1) = n + 1 + j := by omega
    rw [hfuel, ih (n + 1) (Nat.lt_of_succ_lt hj) hqj fun k hk => hgo k (Nat.lt_succ_of_lt hk),
      runRule_succ, hgo j (Nat.lt_succ_self j)]
    exact proceed_quiet _ _ _ _ hj hq1

/-- With the first word due after micro-step `j + 1` the rule waits there at the next one. -/
theorem runRule_waits (n : Nat) (hj : j + 1 < lastStep i) (hq : s.quiet j = true) (hd : s.quiet (j + 1) = false)
    (hgo : ∀ k ≤ j, micro (k + 1) (s.after write k) = .go (k + 2) (write (k + 1) (s.after write k))) :
    runRule i micro (n + 1 + j) 1 s = .next ((s.after write (j + 1)).suspend i (j + 2)) := by
  have hd1 := (State.write_after_quiet hpres hq).trans hd
  rw [runRule_reaches hpres (n + 1) (Nat.lt_of_succ_lt hj) hq fun k hk => hgo k hk.le, runRule_succ,
    hgo j le_rfl]
  exact proceed_due _ _ _ _ hj hd1

end Straight

@[simp] theorem State.initiate_pres (s : State) (op : ReplyOp) (busy : TransferState) (dev : BitVec 7) (sr : Bool)
    (buf len : Word) (k : Nat) : (s.initiate op busy dev sr buf len k).pres = s.pres := by
  unfold State.initiate
  split <;> rfl

/-- From READY the micro-steps of MTX are the initiation's, each going on to the next (spec 41 R130). -/
theorem microMtx_initiates (dev : BitVec 7) (sr : Bool) (buf len : Word) (s : State) (hs : s.ctx.state = .ready)
    (k : Nat) :
    let write := fun k t => State.initiate t .mtx .busyTx dev sr buf len k
    microMtx dev sr buf len (k + 1) (s.after write k) = .go (k + 2) (write (k + 1) (s.after write k)) := by
  cases k with
  | zero => simp [microMtx, State.after, State.initiate, hs]
  | succ k => simp [microMtx]

/-- Settles O28: the general wait of a rule that goes straight on, at each of MTX's four cuts. -/
theorem mtxWaitsWhereAWordFallsDue : Obligations.MtxWaitsWhereAWordFallsDue := by
  intro dev sr buf len s k hclk hrace hready h1 h4 hquiet hdue
  obtain ⟨j, rfl⟩ : ∃ j, k = j + 1 := ⟨k - 1, by omega⟩
  have hguard := (State.contextGuard_eq_none s).2 ⟨hclk, hrace⟩
  have hfuel : maxMicro = 7 - j + 1 + j := by simp only [maxMicro]; omega
  have hlast : j + 1 < lastStep (.mtx dev sr buf len) := Nat.lt_succ_of_le h4
  have hpres k t := State.initiate_pres t .mtx .busyTx dev sr buf len k
  have hwaits := runRule_waits hpres (7 - j) hlast hquiet hdue fun k _ => microMtx_initiates dev sr buf len s hready k
  change runCommand _ s.contextGuard _ s = _
  rw [hguard, runCommand, hfuel, hwaits]
  have hj : j < 4 := h4
  congr 1
  interval_cases j <;> ext1 <;>
    simp [State.after, State.initiate, State.enableSources, tagged, hready]

end Sys2Proof.Machine
end

section
/-! SUPPORT. What every micro-step leaves alone, where the rule goes on after it, and that the rounds `runRule` is
given are always enough (spec 70 R263). -/

namespace Sys2Proof.Machine

/-- What a micro-step never writes: the stack, what the contexts have begun, and the inputs of PERIPH and APP. -/
def State.setting (s : State) : List Context × Mid × List Presented × List (List Word) :=
  (s.stack, s.mid, s.pres, s.app)

theorem State.setting_eq_iff {s t : State} :
    t.setting = s.setting ↔ t.stack = s.stack ∧ t.mid = s.mid ∧ t.pres = s.pres ∧ t.app = s.app := by
  simp only [State.setting, Prod.mk.injEq]

section Setting

variable (s : State)

@[simp] theorem State.record_setting (a : Action) : (s.record a).setting = s.setting := rfl

@[simp] theorem State.ctlWrite_setting (c : CtlFields) (l : CtlField) (v : Nat) :
    (s.ctlWrite c l v).setting = s.setting := rfl

@[simp] theorem State.closeStep_setting (k : Nat) : (s.closeStep k).setting = s.setting := by
  unfold State.closeStep
  split <;> rfl

@[simp] theorem State.initiate_setting (op : ReplyOp) (busy : TransferState) (dev : BitVec 7) (sr : Bool)
    (buf len : Word) (k : Nat) : (s.initiate op busy dev sr buf len k).setting = s.setting := by
  unfold State.initiate
  split <;> rfl

@[simp] theorem State.receiveByte_setting : s.receiveByte.setting = s.setting := by
  unfold State.receiveByte
  split <;> rfl

@[simp] theorem State.sendByte_setting : s.sendByte.setting = s.setting := rfl

end Setting

/-- A micro-step `k` that leaves the setting of `s` alone and after which the rule, where it goes on, stands at
micro-step `k + 1`. -/
def Micro.Follows (k : Nat) (s : State) : Micro → Prop
  | .go k1 t => k1 = k + 1 ∧ t.setting = s.setting
  | .done t => t.setting = s.setting
  | .emit _ k1 t => k1 = k + 1 ∧ t.setting = s.setting
  | .raise _ => True
  | .stuck _ => True

/-- Every rule has a micro-step, and fewer than the rounds it is given (spec 70 R263). -/
theorem lastStep_bounds (i : Instr) : 1 ≤ lastStep i ∧ lastStep i < maxMicro := by
  cases i with
  | evRxne msl tra => cases msl <;> simp [lastStep, maxMicro]
  | _ => simp [lastStep, maxMicro]

/-- Every micro-step up to the last leaves the setting alone and leads to the one after it. -/
theorem microOf_follows (i : Instr) (k : Nat) (s : State) (h1 : 1 ≤ k) (hk : k ≤ lastStep i) :
    (microOf i k s).Follows k s := by
  have honly : lastStep i = 1 → k = 1 := by omega
  cases i with
  | clk | deinit | pe | gc | cben | irqen | irqpri | stx | srx => cases honly rfl; exact ⟨rfl, rfl⟩
  | init own speed duty ack =>
    cases honly rfl
    simp only [microOf, microInit]
    split_ifs <;> simp only [Micro.Follows, true_and] <;> rfl
  | flag index =>
    cases honly rfl
    simp only [microOf, microFlag]
    split_ifs <;> simp only [Micro.Follows, true_and] <;> rfl
  | mtx dev sr buf len =>
    simp only [microOf, microMtx]
    split_ifs <;> simp_all [Micro.Follows]
  | mrx dev sr buf len =>
    simp only [microOf, microMrx]
    split_ifs <;> simp_all [Micro.Follows]
  | closetx | closerx => exact ⟨rfl, s.closeStep_setting k⟩
  | evSb msl tra =>
    cases honly rfl
    simp only [microOf, microSb]
    split <;> simp [Micro.Follows]
  | evAddr msl tra =>
    simp only [lastStep] at hk
    simp only [microOf, microAddr]
    split_ifs <;> simp [Micro.Follows] <;> omega
  | evBtf msl tra =>
    simp only [microOf, microBtf]
    split_ifs <;> simp_all [Micro.Follows]
  | evStopf msl tra =>
    simp only [lastStep] at hk
    simp only [microOf, microStopf]
    split_ifs <;> simp [Micro.Follows] <;> omega
  | evRxne msl tra =>
    have hslave : msl = false → k = 1 := by rintro rfl; exact honly rfl
    simp only [microOf, microRxne]
    split_ifs <;> simp_all [Micro.Follows]
  | evTxe msl tra =>
    cases honly rfl
    simp only [microOf, microTxe]
    split_ifs <;> simp [Micro.Follows]
  | err flags =>
    simp only [microOf, microErr]
    split
    · split_ifs <;> simp [Micro.Follows]
    · rfl

/-- A rule goes on alike by two continuations that agree at the micro-step it stands at, if it has that one left. -/
theorem proceed_congr {i : Instr} {rest rest' : Nat → State → Answer} {k : Nat} {s : State}
    (h : k ≤ lastStep i → rest k (s.elapsed 1) = rest' k (s.elapsed 1)) :
    proceed i rest k s = proceed i rest' k s := by
  rcases Nat.lt_or_ge (lastStep i) k with hk | hk
  · rw [proceed_ended _ _ _ _ hk, proceed_ended _ _ _ _ hk]
  · unfold proceed
    rw [State.elapse_eq, h hk]

/-- Any number of rounds that reaches past the last micro-step gives the same answer. -/
theorem runRule_rounds {i : Instr} {n m k : Nat} {s : State} (h1 : 1 ≤ k) (hk : k ≤ lastStep i)
    (hn : lastStep i < k + n) (hm : lastStep i < k + m) :
    runRule i (microOf i) n k s = runRule i (microOf i) m k s := by
  induction n generalizing m k s with
  | zero => omega
  | succ n ih =>
    obtain ⟨m, rfl⟩ : ∃ m', m = m' + 1 := ⟨m - 1, by omega⟩
    have hnext (t : State) (h : k + 1 ≤ lastStep i) :
        runRule i (microOf i) n (k + 1) t = runRule i (microOf i) m (k + 1) t :=
      ih (by omega) h (by omega) (by omega)
    have hfollows := microOf_follows i k s h1 hk
    rw [runRule_succ, runRule_succ]
    cases hmicro : microOf i k s with
    | go k1 t =>
      rw [hmicro] at hfollows
      obtain ⟨rfl, -⟩ := hfollows
      exact proceed_congr fun h => hnext _ h
    | emit ev k1 t =>
      rw [hmicro] at hfollows
      obtain ⟨rfl, -⟩ := hfollows
      simp only [emitted, proceed_congr fun h => hnext _ h]
    | done t => rfl
    | raise c => rfl
    | stuck a => rfl

/-- A rule with rounds enough left goes on as it does when it is resumed. -/
theorem runRule_eq_resume {i : Instr} {n k : Nat} {s : State} (h1 : 1 ≤ k) (hk : k ≤ lastStep i)
    (hn : lastStep i < k + n) : runRule i (microOf i) n k s = resume i k s := by
  have hmax := (lastStep_bounds i).2
  exact runRule_rounds h1 hk hn (by omega)

end Sys2Proof.Machine
end

section
/-! SUPPORT. A rule cut short, and the same rule in one piece: by a word that falls due, and by a callback in which APP
has commands (spec 60 R210, R215, R216). -/

namespace Sys2Proof.Machine

/-- The state with other words to be presented. -/
def State.presenting (ps : List Presented) (s : State) : State := { s with pres := ps }

/-- The state with other commands of APP to come. -/
def State.issuing (cmds : List (List Word)) (s : State) : State := { s with app := cmds }

/-- No micro-step sees the words that PERIPH will present. -/
theorem blind_presenting (ps : List Presented) : Blind (State.presenting ps) := by
  constructor <;> intros <;> rfl

/-- No micro-step sees the commands that APP will issue. -/
theorem blind_issuing (cmds : List (List Word)) : Blind (State.issuing cmds) := by
  constructor <;> intros <;> rfl

@[simp] theorem State.setFrames_frames (s : State) (fs : List Frame) : (s.setFrames fs).frames = fs :=
  Mid.get_set_self _ _ _

@[simp] theorem State.suspend_frames (s : State) (i : Instr) (k : Nat) :
    (s.suspend i k).frames = .rule i k :: s.frames :=
  State.setFrames_frames _ _

/-- The later of two writes to what the running context has begun stays. -/
@[simp] theorem State.setFrames_setFrames (s : State) (fs gs : List Frame) :
    (s.setFrames fs).setFrames gs = s.setFrames gs := by
  ext1 <;> simp

/-- Writing back what the running context has begun changes nothing. -/
@[simp] theorem State.setFrames_self (s : State) : s.setFrames s.frames = s :=
  State.ext rfl rfl rfl rfl rfl rfl (Mid.set_get_self _ _) rfl rfl rfl rfl rfl rfl rfl rfl rfl

/-- A state with no word to come, given some and then none, and its own entries of `mid` back, is as before. -/
theorem State.presenting_setFrames_self {s : State} (hpres : s.pres = []) (ps : List Presented) :
    ((s.presenting ps).setFrames s.frames).presenting [] = s :=
  calc
    _ = (s.setFrames s.frames).presenting s.pres := by rw [hpres]; rfl
    _ = s := congrArg (State.presenting s.pres) s.setFrames_self

/-- A suspended rule taken out of `mid` again. -/
@[simp] theorem State.suspend_setFrames (s : State) (i : Instr) (k : Nat) (fs : List Frame) :
    (s.suspend i k).setFrames fs = s.setFrames fs :=
  State.setFrames_setFrames _ _ _

/-- What the running context has begun is told by the stack and `mid` alone. -/
theorem State.frames_congr {s t : State} (hst : t.stack = s.stack) (hmid : t.mid = s.mid) : t.frames = s.frames := by
  simp only [State.frames, State.top, hst, hmid]

/-- With no word to come the passing of a moment changes nothing. -/
theorem State.elapsed_of_no_word {s : State} (h : s.pres = []) (k : Nat) : s.elapsed k = s := by
  ext1 <;> simp [afterSteps, h]

/-- With no word to come it is quiet. -/
theorem State.quiet_of_no_word {s : State} (h : s.pres = []) (k : Nat) : s.quiet k = true := by
  simp only [State.quiet, h, quietFor]

/-- The end of a rule leaves nothing more begun than there was, unless its handler has exited. -/
theorem ruleEnded_frames_length {i : Instr} {s t : State} (h : ruleEnded i s = .next t)
    (hlen : isCommand i = false → t.stack.length = s.stack.length) : t.frames.length ≤ s.frames.length := by
  unfold ruleEnded at h
  split at h
  · cases h; exact le_rfl
  · next hc =>
    cases h
    have hst : s.stack = [] := by
      have hcmd : isCommand i = false := by
        cases hi : isCommand i with
        | true => exact absurd (by simp [hi]) hc
        | false => rfl
      have htail : s.stack.length - 1 = s.stack.length := by simpa using hlen hcmd
      exact List.length_eq_zero_iff.1 (by omega)
    simp [State.frames, State.top, hst]

/-- Where the answer `a` of rule `i` leaves it waiting above what `s` has begun, with no fault, resuming the rule with
no word to come gives the answer `b`, if that is a next state. -/
def ResumesTo (i : Instr) (s : State) (a b : Answer) : Prop :=
  ∀ t u k, a = .next t → b = .next u → (isCommand i = false → t.stack.length = s.stack.length) →
    t.frames = .rule i k :: s.frames → t.fault = none →
    resume i k ((t.setFrames s.frames).presenting []) = .next u

theorem ResumesTo.congr {i : Instr} {s s' : State} {a b : Answer} (hst : s'.stack = s.stack) (hmid : s'.mid = s.mid)
    (h : ResumesTo i s' a b) : ResumesTo i s a b := by
  simpa only [ResumesTo, hst, State.frames_congr hst hmid] using h

/-- A rule that has ended waits nowhere. -/
theorem ruleEnded_resumesTo {i : Instr} {s s' : State} {b : Answer} (hst : s'.stack = s.stack) (hmid : s'.mid = s.mid) :
    ResumesTo i s (ruleEnded i s') b := by
  intro t u k ha _ hlen hfr _
  have hle := ruleEnded_frames_length ha (by simpa only [hst] using hlen)
  rw [State.frames_congr hst hmid, hfr, List.length_cons] at hle
  omega

section Cut

variable {i : Instr} {n k : Nat} {s : State} {p : Presented}

/-- A word due where the rule stands makes it wait there; otherwise the cut, if any, comes later. -/
theorem proceed_resumesTo (hpres : s.pres = []) (h1 : 1 ≤ k) (hn : lastStep i < k + n)
    (hrest : k ≤ lastStep i → ∀ p, ResumesTo i s (runRule i (microOf i) n k (s.presenting [p]))
      (runRule i (microOf i) n k s)) :
    ResumesTo i s (proceed i (runRule i (microOf i) n) k (s.presenting [p]))
      (proceed i (runRule i (microOf i) n) k s) := by
  rcases Nat.lt_or_ge (lastStep i) k with hk | hk
  · rw [proceed_ended _ _ _ _ hk]
    exact ruleEnded_resumesTo rfl rfl
  · rw [proceed_quiet _ _ _ s hk (State.quiet_of_no_word hpres 1), State.elapsed_of_no_word hpres]
    cases hq : (s.presenting [p]).quiet 1 with
    | true =>
      rw [proceed_quiet _ _ _ _ hk hq]
      exact hrest hk ⟨p.after - 1, p.word⟩
    | false =>
      rw [proceed_due _ _ _ _ hk hq]
      intro t u m ha hb _ hfr _
      cases ha
      obtain ⟨rfl⟩ : k = m := by simpa [State.frames_congr (s := s) (t := s.presenting [p]) rfl rfl] using hfr
      have hback := State.presenting_setFrames_self hpres (afterSteps 1 [p])
      rw [State.suspend_setFrames, ← hb, runRule_eq_resume h1 hk hn]
      exact congrArg (resume i k) hback

/-- Running a rule with a word to come, and in one piece. -/
theorem runRule_resumesTo (hpres : s.pres = []) (h1 : 1 ≤ k) (hk : k ≤ lastStep i) (hn : lastStep i < k + n) :
    ResumesTo i s (runRule i (microOf i) n k (s.presenting [p])) (runRule i (microOf i) n k s) := by
  induction n generalizing k s p with
  | zero => omega
  | succ n ih =>
    have hfollows := microOf_follows i k s h1 hk
    rw [runRule_succ, runRule_succ, microOf_blind (blind_presenting [p])]
    cases hmicro : microOf i k s with
    | go k1 t =>
      rw [hmicro] at hfollows
      obtain ⟨rfl, hset⟩ := hfollows
      obtain ⟨hst, hmid, hp, -⟩ := State.setting_eq_iff.1 hset
      have hpt : t.pres = [] := hp.trans hpres
      exact (proceed_resumesTo hpt (by omega) (by omega) fun h p => ih hpt (by omega) h (by omega)).congr hst hmid
    | done t =>
      rw [hmicro] at hfollows
      obtain ⟨hst, hmid, -, -⟩ := State.setting_eq_iff.1 hfollows
      exact ruleEnded_resumesTo hst hmid
    | emit ev k1 t =>
      rw [hmicro] at hfollows
      obtain ⟨rfl, hset⟩ := hfollows
      obtain ⟨hst, hmid, hp, -⟩ := State.setting_eq_iff.1 hset
      have hpt : t.pres = [] := hp.trans hpres
      cases happ : t.appCommands with
      | nil =>
        simp only [Micro.map]
        rw [emitted_silent _ _ _ _ _ happ, emitted_silent _ _ _ (t.presenting [p]) _ happ]
        exact (proceed_resumesTo (s := (t.record (.cb ev)).appTaken) hpt (by omega) (by omega)
          fun h p => ih hpt (by omega) h (by omega)).congr hst hmid
      | cons w ws =>
        intro t' u m ha _ _ hfr
        simp only [Micro.map] at ha
        rw [emitted_open _ _ _ (t.presenting [p]) _ w ws happ] at ha
        cases ha
        simp at hfr
    | raise c =>
      intro t u m ha _ _ _ hfault
      cases ha
      cases hfault
    | stuck a =>
      intro t u m _ hb
      simp [stuckAt, hpres] at hb

end Cut

/-- Where the answer `a` of rule `i` leaves a callback open above the rule and what `s` has begun, the callback's return
with nothing done in it gives the answer `b`, if that is a next state. -/
def ReturnsTo (i : Instr) (s : State) (a b : Answer) : Prop :=
  ∀ t u ev cmds k, a = .next t → b = .next u → t.stack.length = s.stack.length →
    t.frames = .callback ev cmds :: .rule i k :: s.frames →
    callbackReturn i k (t.setFrames s.frames) = .next u

theorem ReturnsTo.congr {i : Instr} {s s' : State} {a b : Answer} (hst : s'.stack = s.stack) (hmid : s'.mid = s.mid)
    (h : ReturnsTo i s' a b) : ReturnsTo i s a b := by
  simpa only [ReturnsTo, hst, State.frames_congr hst hmid] using h

/-- A rule that has ended leaves no callback open. -/
theorem ruleEnded_returnsTo {i : Instr} {s s' : State} {b : Answer} (hst : s'.stack = s.stack) (hmid : s'.mid = s.mid) :
    ReturnsTo i s (ruleEnded i s') b := by
  intro t u ev cmds k ha _ hlen hfr
  have hle := ruleEnded_frames_length ha fun _ => by simpa only [hst] using hlen
  rw [State.frames_congr hst hmid, hfr, List.length_cons, List.length_cons] at hle
  omega

section Callback

variable {i : Instr} {n k : Nat} {s : State}

/-- With no word to come a rule goes on where it stands, whatever APP is to issue. -/
theorem proceed_returnsTo {x y : List (List Word)} (hpres : s.pres = [])
    (hrest : k ≤ lastStep i → ReturnsTo i s (runRule i (microOf i) n k (s.issuing x))
      (runRule i (microOf i) n k (s.issuing y))) :
    ReturnsTo i s (proceed i (runRule i (microOf i) n) k (s.issuing x))
      (proceed i (runRule i (microOf i) n) k (s.issuing y)) := by
  have hquiet (z) : (s.issuing z).quiet 1 = true := State.quiet_of_no_word hpres 1
  have helapsed (z) : (s.issuing z).elapsed 1 = s.issuing z := State.elapsed_of_no_word (s := s.issuing z) hpres 1
  rcases Nat.lt_or_ge (lastStep i) k with hk | hk
  · rw [proceed_ended _ _ _ _ hk]
    exact ruleEnded_returnsTo rfl rfl
  · rw [proceed_quiet _ _ _ _ hk (hquiet x), proceed_quiet _ _ _ _ hk (hquiet y), helapsed, helapsed]
    exact hrest hk

/-- Running a rule where APP has commands in some callback, and where it has none there. -/
theorem runRule_returnsTo {silent after : List (List Word)} {w : Word} {ws : List Word} (hpres : s.pres = [])
    (hsilent : ∀ c ∈ silent, c = []) (h1 : 1 ≤ k) (hk : k ≤ lastStep i) (hn : lastStep i < k + n) :
    ReturnsTo i s (runRule i (microOf i) n k (s.issuing (silent ++ (w :: ws) :: after)))
      (runRule i (microOf i) n k (s.issuing (silent ++ [] :: after))) := by
  induction n generalizing k s silent with
  | zero => omega
  | succ n ih =>
    have hfollows := microOf_follows i k s h1 hk
    rw [runRule_succ, runRule_succ, microOf_blind (blind_issuing _), microOf_blind (blind_issuing _)]
    cases hmicro : microOf i k s with
    | go k1 t =>
      rw [hmicro] at hfollows
      obtain ⟨rfl, hset⟩ := hfollows
      obtain ⟨hst, hmid, hp, -⟩ := State.setting_eq_iff.1 hset
      have hpt : t.pres = [] := hp.trans hpres
      exact (proceed_returnsTo hpt fun h => ih hpt hsilent (by omega) h (by omega)).congr hst hmid
    | done t =>
      rw [hmicro] at hfollows
      obtain ⟨hst, hmid, -, -⟩ := State.setting_eq_iff.1 hfollows
      exact ruleEnded_returnsTo hst hmid
    | emit ev k1 t =>
      rw [hmicro] at hfollows
      obtain ⟨rfl, hset⟩ := hfollows
      obtain ⟨hst, hmid, hp, -⟩ := State.setting_eq_iff.1 hset
      have hpt : t.pres = [] := hp.trans hpres
      refine ReturnsTo.congr hst hmid ?_
      simp only [Micro.map]
      cases silent with
      | nil =>
        rw [emitted_open _ _ _ (t.issuing ([] ++ (w :: ws) :: after)) _ w ws rfl,
          emitted_silent _ _ _ (t.issuing ([] ++ [] :: after)) _ rfl]
        intro t' u ev' cmds m ha hb _ hfr
        cases ha
        rw [State.setFrames_frames, List.cons.injEq, List.cons.injEq, Frame.rule.injEq] at hfr
        obtain ⟨-, ⟨-, rfl⟩, -⟩ := hfr
        have hback : ((t.issuing ((w :: ws) :: after)).record (.cb ev)).appTaken.setFrames t.frames =
            ((t.issuing ([] :: after)).record (.cb ev)).appTaken :=
          congrArg (fun t' => ((t'.issuing ([] :: after)).record (.cb ev)).appTaken) t.setFrames_self
        rw [State.setFrames_setFrames, State.suspend_setFrames, ← hb]
        refine (congrArg (callbackReturn i (k + 1)) hback).trans ?_
        exact proceed_congr fun h => (runRule_eq_resume (by omega) h (by omega)).symm
      | cons c silent =>
        obtain rfl : c = [] := hsilent c List.mem_cons_self
        rw [emitted_silent _ _ _ (t.issuing ([] :: silent ++ (w :: ws) :: after)) _ rfl,
          emitted_silent _ _ _ (t.issuing ([] :: silent ++ [] :: after)) _ rfl]
        exact proceed_returnsTo (s := t.record (.cb ev)) hpt fun h =>
          ih hpt (fun c hc => hsilent c (List.mem_cons_of_mem _ hc)) (by omega) h (by omega)
    | raise c =>
      intro t u ev cmds m ha _ _ hfr
      cases ha
      simp at hfr
    | stuck a =>
      intro t u ev cmds m ha
      simp [Micro.map, stuckAt, State.issuing, hpres] at ha

end Callback

end Sys2Proof.Machine
end

section
/-! An interrupted rule ends as it would have ended in one piece (spec 00 R9, 60 R210, R214 to R216). -/

namespace Sys2Proof.Machine

section Handler

variable {i : Instr} {s : State}

/-- Whether a presented word's handler starts: its gate is true and it may preempt (spec 60 R208, R210). -/
def State.starts (s : State) (i : Instr) : Bool := gateOf i s && s.mayPreempt (lineOfInput i)

/-- The state in which the handler of a presented word begins (spec 60 R214). -/
def State.entered (s : State) (i : Instr) : State := s.enter (handlerOf (lineOfInput i))

@[simp] theorem State.entered_frames : (s.entered i).frames = [] := Mid.get_set_self _ _ _

@[simp] theorem State.entered_stack : (s.entered i).stack = handlerOf (lineOfInput i) :: s.stack := rfl

/-- A word whose handler does not start is discarded (spec 42 R140, 44 R175). -/
theorem exec_discarded (hc : isCommand i = false) (h : s.starts i = false) : exec i s = .next s := by
  rw [exec_handler i s hc, runHandler, ← State.starts, h, if_neg Bool.false_ne_true]

/-- A handler that starts with no word due begins its rule. -/
theorem exec_begins (hc : isCommand i = false) (h : s.starts i = true) (hd : s.due = false) :
    exec i s = runRule i (microOf i) maxMicro 1 (s.entered i) := by
  rw [exec_handler i s hc, runHandler, ← State.starts, h, if_pos rfl, hd, if_neg Bool.false_ne_true, State.entered]

/-- A handler that starts with another word due waits at its entry (spec 60 R213; log 19). -/
theorem exec_waits_at_entry (hc : isCommand i = false) (h : s.starts i = true) (hd : s.due = true) :
    exec i s = .next ((s.entered i).suspend i 1) := by
  rw [exec_handler i s hc, runHandler, ← State.starts, h, if_pos rfl, hd, if_pos rfl, State.entered]

/-- Only a handler that starts leaves another context on the stack. -/
theorem starts_of_exec {t : State} {h : Context} (hc : isCommand i = false) (ht : exec i s = .next t)
    (hst : t.stack = h :: s.stack) : s.starts i = true := by
  cases hs : s.starts i with
  | true => rfl
  | false =>
    rw [exec_discarded hc hs] at ht
    cases ht
    exact absurd hst.symm (List.cons_ne_self _ _)

theorem starts_presenting (ps : List Presented) : (s.presenting ps).starts i = s.starts i := by
  cases i <;> rfl

theorem starts_issuing (cmds : List (List Word)) : (s.issuing cmds).starts i = s.starts i := by
  cases i <;> rfl

end Handler

theorem guardOf_presenting (i : Instr) (ps : List Presented) (s : State) :
    guardOf i (s.presenting ps) = guardOf i s := by
  cases i <;> rfl

section Exec

variable {i : Instr} {s : State} (hpres : s.pres = [])
include hpres

/-- A command cut by a word. -/
theorem exec_command_resumesTo (hc : isCommand i = true) (p : Presented) :
    ResumesTo i s (exec i (s.presenting [p])) (exec i s) := by
  rw [exec_command i _ hc, exec_command i _ hc, guardOf_presenting]
  cases guardOf i s with
  | none =>
    obtain ⟨hfirst, hmax⟩ := lastStep_bounds i
    exact runRule_resumesTo hpres le_rfl hfirst (by omega)
  | some c =>
    intro t u k ha _ _ _ hfault
    cases ha
    cases hfault

/-- A handler's rule cut by a word, at its entry or later. -/
theorem exec_handler_resumesTo (hc : isCommand i = false) (hs : s.starts i = true) (p : Presented) :
    ResumesTo i (s.entered i) (exec i (s.presenting [p])) (exec i s) := by
  obtain ⟨hfirst, hmax⟩ := lastStep_bounds i
  have hstarts : (s.presenting [p]).starts i = true := (starts_presenting _).trans hs
  rw [exec_begins hc hs (State.due_of_quiet (State.quiet_of_no_word hpres 0))]
  cases hd : (s.presenting [p]).due with
  | false =>
    rw [exec_begins hc hstarts hd]
    exact runRule_resumesTo (s := s.entered i) hpres le_rfl hfirst (by omega)
  | true =>
    rw [exec_waits_at_entry hc hstarts hd]
    intro t u k ha hb _ hfr _
    cases ha
    rw [State.suspend_frames, List.cons.injEq, Frame.rule.injEq] at hfr
    obtain ⟨⟨-, rfl⟩, -⟩ := hfr
    rw [State.suspend_setFrames, ← hb]
    exact congrArg (resume i 1) (State.presenting_setFrames_self (s := s.entered i) hpres [p])

/-- A handler's rule cut by the first callback in which APP has commands. -/
theorem exec_handler_returnsTo (hc : isCommand i = false) (hs : s.starts i = true) {silent after : List (List Word)}
    {w : Word} {ws : List Word} (hsilent : ∀ c ∈ silent, c = []) :
    ReturnsTo i (s.entered i) (exec i (s.issuing (silent ++ (w :: ws) :: after)))
      (exec i (s.issuing (silent ++ [] :: after))) := by
  obtain ⟨hfirst, hmax⟩ := lastStep_bounds i
  have hbegins (cmds) : exec i (s.issuing cmds) = runRule i (microOf i) maxMicro 1 ((s.entered i).issuing cmds) :=
    exec_begins hc ((starts_issuing cmds).trans hs) (State.due_of_quiet (State.quiet_of_no_word hpres 0))
  rw [hbegins, hbegins]
  exact runRule_returnsTo (s := s.entered i) hpres hsilent le_rfl hfirst (by omega)

end Exec

/-- Settles O29: the rule runs its remaining micro-steps from the state it was cut in, and no micro-step sees the
words and commands still to come. -/
theorem interruptedRuleEndsTheSame : Obligations.InterruptedRuleEndsTheSame := by
  refine ⟨?_, ?_, ?_⟩
  · intro i s t u w j k hc ht hfr hfault hu
    exact exec_command_resumesTo (s := s.presenting []) rfl hc ⟨j, w⟩ t u k ht hu (by simp [hc]) hfr hfault
  · intro i s t u h w j k hc ht hst hfr hfault hu
    have hs := (starts_presenting (s := s.presenting []) [⟨j, w⟩]).symm.trans (starts_of_exec hc ht hst)
    have hend := exec_handler_resumesTo (s := s.presenting []) rfl hc hs ⟨j, w⟩ t u k ht hu
      (fun _ => by simp [hst, State.presenting]) (by rw [hfr, State.entered_frames]) hfault
    rwa [State.entered_frames] at hend
  · intro i s t u h ev silent after w ws k hc hsilent ht hst hfr hu
    have hs := (starts_issuing (s := s.presenting []) _).symm.trans (starts_of_exec hc ht hst)
    have hend := exec_handler_returnsTo (s := s.presenting []) rfl hc hs hsilent t u ev (w :: ws) k ht hu
      (by simp [hst, State.presenting]) (by rw [hfr, State.entered_frames])
    rwa [State.entered_frames] at hend

end Sys2Proof.Machine
end

section
/-! SUPPORT. What a rule may write, said once (spec 10 R27, R29, R31, R42 to R44, 20 R60), and with it which rule
writes which field, begun, resumed or gone on with after a callback. -/

namespace Sys2Proof.Machine

/-- The Transfer State a rule may move to (spec 10 R27). -/
def movesTo : Instr → Option TransferState
  | .mtx _ _ _ _ => some .busyTx
  | .mrx _ _ _ _ => some .busyRx
  | .closetx | .closerx | .deinit | .evBtf true _ | .evRxne true _ => some .ready
  | _ => none

/-- The rules that may write `Ctl(ACK)` (spec 10 R31). -/
def writesAck : Instr → Bool
  | .init _ _ _ _ | .deinit | .closetx | .closerx | .evAddr true _ | .evBtf true _ | .evRxne true _ => true
  | _ => false

/-- The rules that may write the configuration (spec 10 R29). -/
def configures : Instr → Bool
  | .init _ _ _ _ | .deinit => true
  | _ => false

/-- One write that rule `i` may make. -/
inductive Write : Instr → State → State → Prop
  | record (i s a) : Write i s (s.record a)
  | drawn (i s) : Write i s s.drawn
  | refuse (i s) : Write i s s.refuse
  | clken (e s en v) : Write (.clk e) s (s.setClken en v)
  | enable (line e s en f v) : Write (.irqen line e) s (s.nvicWrite (s.nvic.setEn en line) f v)
  | priority (line q s p f v) : Write (.irqpri line q) s (s.nvicWrite (s.nvic.setPrio p line) f v)
  | cfg {i} (s c) (hi : configures i = true) : Write i s (s.setCfg c)
  | ctl {i} (s c f v) (hi : c.ack = s.ctl.ack ∨ writesAck i = true) : Write i s (s.ctlWrite c f v)
  | ctx {i} (s c) (hi : c.state = s.ctx.state ∨ movesTo i = some c.state) : Write i s (s.setCtx c)
  | mem (tra s a v) : Write (.evRxne true tra) s (s.memWrite a v)

/-- A run of writes that rule `i` may make. -/
abbrev Writes (i : Instr) : State → State → Prop := Relation.ReflTransGen (Write i)

section Writes

open Relation.ReflTransGen (single)

variable {i : Instr} (s : State)

theorem State.record_writes (a : Action) : Writes i s (s.record a) := single (.record i s a)

theorem State.closeStep_writes (hack : writesAck i = true) (hto : movesTo i = some .ready) (k : Nat) :
    Writes i s (s.closeStep k) := by
  unfold State.closeStep
  split
  · exact (single (.ctl s _ _ _ (.inl rfl))).tail (.ctl _ _ _ _ (.inl rfl))
  · exact single (.ctx s _ (.inl rfl))
  · exact single (.ctl s _ _ _ (.inr hack))
  · exact single (.ctx s _ (.inr hto))
  · exact .refl

theorem State.enableSources_writes (en : Bool) : Writes i s (s.enableSources en) :=
  ((single (.ctl s _ _ _ (.inl rfl))).tail (.ctl _ _ _ _ (.inl rfl))).tail (.ctl _ _ _ _ (.inl rfl))

theorem State.program_writes (hcfg : configures i = true) (hack : writesAck i = true) (own : BitVec 7) (speed : Speed)
    (duty : Duty) (ack : Bool) : Writes i s (s.program own speed duty ack) :=
  have hctl (t c f v) : Write i t (t.ctlWrite c f v) := .ctl t c f v (.inr hack)
  (((((((single (.cfg s _ hcfg)).tail (hctl _ _ _ _)).tail (hctl _ _ _ _)).tail (hctl _ _ _ _)).tail
    (hctl _ _ _ _)).tail (hctl _ _ _ _)).tail (hctl _ _ _ _)).tail (hctl _ _ _ _)

theorem State.initiate_writes {busy : TransferState} (hto : movesTo i = some busy) (op : ReplyOp) (dev : BitVec 7)
    (sr : Bool) (buf len : Word) (k : Nat) : Writes i s (s.initiate op busy dev sr buf len k) := by
  unfold State.initiate
  split
  · exact single (.ctx s _ (.inl rfl))
  · exact single (.ctx s _ (.inr hto))
  · exact s.enableSources_writes true
  · exact (s.record_writes _).tail (.record _ _ _)
  · exact .refl

theorem State.receiveByte_writes (tra : Bool) : Writes (.evRxne true tra) s s.receiveByte := by
  have hstore (t a v b) : Writes (.evRxne true tra) t ((t.drawn.record a).memWrite v b) :=
    ((single (.drawn _ t)).tail (.record _ _ a)).tail (.mem tra _ v b)
  unfold State.receiveByte
  split
  · exact ((single (.ctl s _ _ _ (.inr rfl))).trans (hstore _ _ _ _)).tail (.ctx _ _ (.inl rfl))
  · exact (hstore s _ _ _).tail (.ctx _ _ (.inl rfl))

theorem State.sendByte_writes : Writes i s s.sendByte :=
  ((s.record_writes _).tail (.record _ _ _)).tail (.ctx _ _ (.inl rfl))

/-- A micro-step of rule `i` makes writes of rule `i` alone. -/
theorem microOf_writes (i : Instr) (k : Nat) : (microOf i k s).Leaves (Writes i s) := by
  cases i with
  | clk en => exact single (.clken en s _ _)
  | init own speed duty ack =>
    simp only [microOf, microInit]
    split_ifs
    · trivial
    · exact s.record_writes _
    · exact (s.program_writes rfl rfl own speed duty ack).tail (.record _ _ _)
  | deinit =>
    exact ((single (.ctl s _ _ _ (.inr rfl))).tail (.cfg _ _ rfl)).tail (.ctx _ _ (.inr rfl))
  | pe en | gc en => exact single (.ctl s _ _ _ (.inl rfl))
  | cben en => exact s.enableSources_writes en
  | irqen line en => exact single (.enable line en s _ _ _)
  | irqpri line prio => exact single (.priority line prio s _ _ _)
  | mtx dev sr buf len =>
    simp only [microOf, microMtx]
    split_ifs
    · exact s.record_writes _
    · exact .refl
    · exact s.initiate_writes rfl _ _ _ _ _ _
  | mrx dev sr buf len =>
    simp only [microOf, microMrx]
    split_ifs
    · exact s.record_writes _
    · trivial
    · exact .refl
    · exact s.initiate_writes rfl _ _ _ _ _ _
  | closetx | closerx => exact s.closeStep_writes rfl rfl k
  | stx value => exact s.record_writes _
  | srx => exact ((single (.drawn _ s)).tail (.record _ _ _)).tail (.record _ _ _)
  | flag index =>
    simp only [microOf, microFlag]
    split_ifs
    · exact (single (.drawn _ s)).tail (.record _ _ _)
    · exact single (.refuse _ s)
  | evSb msl tra =>
    simp only [microOf, microSb]
    split
    · exact s.record_writes _
    · exact s.record_writes _
    · exact .refl
  | evAddr msl tra =>
    cases msl
    · simp only [microOf, microAddr, Bool.false_eq_true, if_false]
      split_ifs
      · exact s.record_writes _
      · exact .refl
    · simp only [microOf, microAddr, if_true]
      split_ifs
      · exact single (.ctl s _ _ _ (.inr rfl))
      · exact .refl
      · exact s.record_writes _
  | evBtf msl tra =>
    cases msl
    · exact .refl
    · simp only [microOf, microBtf, if_true]
      split_ifs
      · exact .refl
      · exact s.record_writes _
      · exact .refl
      · exact .refl
      · exact s.closeStep_writes rfl rfl _
  | evStopf msl tra =>
    simp only [microOf, microStopf]
    split_ifs
    · exact s.record_writes _
    · exact .refl
    · exact .refl
  | evRxne msl tra =>
    cases msl
    · simp only [microOf, microRxne, Bool.false_eq_true, if_false]
      split_ifs <;> exact .refl
    · simp only [microOf, microRxne, if_true]
      split_ifs
      · exact .refl
      · trivial
      · exact s.receiveByte_writes tra
      · trivial
      · exact .refl
      · exact .refl
      · exact s.record_writes _
      · exact .refl
      · exact s.closeStep_writes rfl rfl _
  | evTxe msl tra =>
    simp only [microOf, microTxe]
    split_ifs
    · exact s.sendByte_writes
    · trivial
    · exact .refl
    · exact .refl
    · exact .refl
  | err flags =>
    simp only [microOf, microErr]
    split
    · split_ifs
      · exact s.record_writes _
      · exact .refl
    · exact .refl

/-- What every write of a rule keeps, its micro-steps keep. -/
theorem microOf_keeps {P : State → Prop} {s : State} {k : Nat} (hwrite : ∀ s t, Write i s t → P s → P t) (hs : P s) :
    (microOf i k s).Leaves P := by
  have hwrites (t : State) (h : Writes i s t) : P t := by
    induction h with
    | refl => exact hs
    | tail _ hw ih => exact hwrite _ _ hw ih
  have hm := microOf_writes s i k
  cases hmicro : microOf i k s with
  | go | done | emit => rw [hmicro] at hm; exact hwrites _ hm
  | raise | stuck => trivial

/-- What the writes of a rule and the bookkeeping keep, a run of the rule keeps. -/
theorem Runs.keeps {P : State → Prop} {s t : State} (hrun : Runs i s t) (hP : Kept P)
    (hwrite : ∀ s t, Write i s t → P s → P t) (hs : P s) : P t := by
  have hmicro k s (hs : P s) : (microOf i k s).Leaves P := microOf_keeps hwrite hs
  obtain h | ⟨k, h⟩ | ⟨k, h⟩ := hrun
  · exact exec_keeps hP hmicro hs h
  · exact resume_keeps hP hmicro hs h
  · exact callbackReturn_keeps hP hmicro hs h

/-- The bookkeeping writes none of these fields. -/
theorem kept_fields (Q : TransferContext → ConfigRecord → CtlFields → Bool → Nvic → Option RefusalReason → Prop) :
    Kept fun s => Q s.ctx s.cfg s.ctl s.clken s.nvic s.refused :=
  ⟨fun _ _ => id, fun _ _ => id, fun _ _ => id, fun _ _ => id, fun _ _ => id, fun _ => id⟩

/-- What the writes of a rule keep of these fields, a run of the rule keeps. -/
theorem Runs.keeps_fields {s t : State} (hrun : Runs i s t)
    (Q : TransferContext → ConfigRecord → CtlFields → Bool → Nvic → Option RefusalReason → Prop)
    (hwrite : ∀ s t, Write i s t → Q s.ctx s.cfg s.ctl s.clken s.nvic s.refused →
      Q t.ctx t.cfg t.ctl t.clken t.nvic t.refused)
    (hs : Q s.ctx s.cfg s.ctl s.clken s.nvic s.refused) : Q t.ctx t.cfg t.ctl t.clken t.nvic t.refused :=
  hrun.keeps (kept_fields Q) hwrite hs

end Writes

end Sys2Proof.Machine
end

section
/-! The reset values, and who writes which field (spec 10 R27, R29, R42 to R44, R52, R56). -/

namespace Sys2Proof.Machine

/-- Settles O11: `State.reset` field by field. -/
theorem resetValues : Obligations.ResetValues :=
  ⟨rfl, rfl, rfl, rfl, rfl, rfl, fun c => by cases c <;> rfl, rfl, rfl, rfl⟩

/-- Settles O54: nothing is begun at reset, and the memory is empty. -/
theorem resetHasShape : Obligations.ResetHasShape :=
  ⟨rfl, fun c => by cases c <;> exact ⟨rfl, rfl⟩, Memory.wf_reset⟩

/-- No write of a rule clears the refusal mark: the one that sets it sets the only reason there is. -/
theorem Write.keeps_refused {i : Instr} {r : RefusalReason} (s t : State) (hw : Write i s t)
    (hs : s.refused = some r) : t.refused = some r := by
  cases hw with
  | refuse => cases r; rfl
  | _ => exact hs

/-- No write of a rule clears the fault mark. -/
theorem Write.keeps_fault {i : Instr} (s t : State) (hw : Write i s t) (hs : s.fault.isSome = true) :
    t.fault.isSome = true := by
  cases hw <;> exact hs

/-- The bookkeeping clears no fault mark. -/
theorem kept_faulted : Kept fun s => s.fault.isSome = true :=
  ⟨fun _ _ => id, fun _ _ => id, fun _ _ _ => rfl, fun _ _ => id, fun _ _ => id, fun _ => id⟩

/-- Settles O12: no write of a rule, no bookkeeping and no refusal clears a mark. -/
theorem marksAreNeverCleared : Obligations.MarksAreNeverCleared := by
  have hkept (r : RefusalReason) : Kept fun s => s.refused = some r :=
    kept_fields fun _ _ _ _ _ refused => refused = some r
  refine ⟨rfl, rfl, ?_, ?_, ?_⟩
  · intro s t r h hs
    refine step_keeps (hkept r) (fun i k s hs => microOf_keeps Write.keeps_refused hs) ?_ (fun _ _ => id)
      (fun _ _ => id) hs h
    intro s hs
    cases r
    rfl
  · intro s c hf
    rw [step, fetch_marked hf]
  · intro i s t h
    exact ⟨Runs.keeps (.inl h) kept_faulted Write.keeps_fault,
      fun r => Runs.keeps (.inl h) (hkept r) Write.keeps_refused⟩

/-- A run of a rule that does not write `Ctl(ACK)` leaves it. -/
theorem Runs.ack {i : Instr} {s t : State} (hrun : Runs i s t) (hi : writesAck i = false) :
    t.ctl.ack = s.ctl.ack := by
  refine hrun.keeps_fields (fun _ _ ctl _ _ _ => ctl.ack = s.ctl.ack) ?_ rfl
  intro u v hw hu
  cases hw with
  | ctl _ c f w hc => exact (hc.resolve_right (by simp [hi])).trans hu
  | _ => exact hu

/-- A run of a rule that does not write the configuration leaves it. -/
theorem Runs.cfg {i : Instr} {s t : State} (hrun : Runs i s t) (hi : configures i = false) : t.cfg = s.cfg := by
  refine hrun.keeps_fields (fun _ cfg _ _ _ _ => cfg = s.cfg) ?_ rfl
  intro u v hw hu
  cases hw with
  | cfg _ c hc => simp [hi] at hc
  | _ => exact hu

/-- Settles O27: MTX and MRX are no writers of `Ctl(ACK)` and none of the configuration. -/
theorem initiationInheritsAck : Obligations.InitiationInheritsAck := by
  rintro dev sr buf len s t (hrun | hrun)
  · exact ⟨hrun.ack rfl, hrun.cfg rfl⟩
  · exact ⟨hrun.ack rfl, hrun.cfg rfl⟩

/-- Only CLK writes CLKEN. -/
theorem Runs.clken {i : Instr} {s t : State} (hrun : Runs i s t) (hi : ∀ en, i ≠ .clk en) : t.clken = s.clken := by
  refine hrun.keeps_fields (fun _ _ _ clken _ _ => clken = s.clken) ?_ rfl
  intro u v hw hu
  cases hw with
  | clken e => exact absurd rfl (hi e)
  | _ => exact hu

/-- Only IRQEN writes the line enables. -/
theorem Runs.enables {i : Instr} {s t : State} (hrun : Runs i s t) (hi : ∀ l en, i ≠ .irqen l en) :
    t.nvic.enEv = s.nvic.enEv ∧ t.nvic.enEr = s.nvic.enEr := by
  refine hrun.keeps_fields (fun _ _ _ _ nvic _ => nvic.enEv = s.nvic.enEv ∧ nvic.enEr = s.nvic.enEr) ?_ ⟨rfl, rfl⟩
  intro u v hw hu
  cases hw with
  | enable line e => exact absurd rfl (hi line e)
  | priority line => cases line <;> exact hu
  | _ => exact hu

/-- Only IRQPRI writes the priorities. -/
theorem Runs.priorities {i : Instr} {s t : State} (hrun : Runs i s t) (hi : ∀ l p, i ≠ .irqpri l p) :
    t.nvic.prioEv = s.nvic.prioEv ∧ t.nvic.prioEr = s.nvic.prioEr := by
  refine hrun.keeps_fields (fun _ _ _ _ nvic _ => nvic.prioEv = s.nvic.prioEv ∧ nvic.prioEr = s.nvic.prioEr)
    ?_ ⟨rfl, rfl⟩
  intro u v hw hu
  cases hw with
  | priority line q => exact absurd rfl (hi line q)
  | enable line => cases line <;> exact hu
  | _ => exact hu

/-- Only INIT and DEINIT configure. -/
theorem configures_eq_false {i : Instr} (hinit : ∀ own sp du a, i ≠ .init own sp du a) (hdeinit : i ≠ .deinit) :
    configures i = false := by
  cases i with
  | init own sp du a => exact absurd rfl (hinit own sp du a)
  | deinit => exact absurd rfl hdeinit
  | _ => rfl

/-- Settles O57: each of the four fields has its writer among the rules, and the bookkeeping writes none of them. -/
theorem oneWriterForEachPlumbingField : Obligations.OneWriterForEachPlumbingField := by
  intro i s t hrun
  exact ⟨hrun.clken, hrun.enables, hrun.priorities,
    fun hinit hdeinit => hrun.cfg (configures_eq_false hinit hdeinit)⟩

/-- A run of a rule leaves the Transfer State or moves it where the rule may move it. -/
theorem Runs.state {i : Instr} {s t : State} (hrun : Runs i s t) :
    t.ctx.state = s.ctx.state ∨ movesTo i = some t.ctx.state := by
  refine hrun.keeps_fields (fun ctx _ _ _ _ _ => ctx.state = s.ctx.state ∨ movesTo i = some ctx.state) ?_ (.inl rfl)
  intro u v hw hu
  cases hw with
  | ctx _ c hc =>
    obtain hsame | hmoved := hc
    · exact hsame.symm ▸ hu
    · exact .inr hmoved
  | _ => exact hu

theorem movesTo_busyTx {i : Instr} (h : movesTo i = some .busyTx) : ∃ dev sr buf len, i = .mtx dev sr buf len := by
  cases i with
  | mtx dev sr buf len => exact ⟨dev, sr, buf, len, rfl⟩
  | evBtf msl tra | evRxne msl tra => cases msl <;> cases h
  | _ => cases h

theorem movesTo_busyRx {i : Instr} (h : movesTo i = some .busyRx) : ∃ dev sr buf len, i = .mrx dev sr buf len := by
  cases i with
  | mrx dev sr buf len => exact ⟨dev, sr, buf, len, rfl⟩
  | evBtf msl tra | evRxne msl tra => cases msl <;> cases h
  | _ => cases h

theorem movesTo_ready {i : Instr} (h : movesTo i = some .ready) :
    i = .closetx ∨ i = .closerx ∨ i = .deinit ∨ (∃ tra, i = .evBtf true tra) ∨ ∃ tra, i = .evRxne true tra := by
  cases i with
  | closetx | closerx | deinit => simp
  | evBtf msl tra | evRxne msl tra =>
    cases msl
    · cases h
    · simp
  | _ => cases h

/-- Settles O58: a run moves the Transfer State to the one value its rule may move it to. -/
theorem whoMovesTheTransferState : Obligations.WhoMovesTheTransferState := by
  intro i s t hrun hne
  have hto := hrun.state.resolve_left hne
  exact ⟨fun h => movesTo_busyTx (h ▸ hto), fun h => movesTo_busyRx (h ▸ hto), fun h => movesTo_ready (h ▸ hto)⟩

end Sys2Proof.Machine
end

section
/-! No rule but PE and DEINIT sees `Ctl(PE)` (spec 10 R30, 41 R134): a rule copies it with the control fields it does
not write. -/

namespace Sys2Proof.Machine

/-- The state with `Ctl(PE)` set to `v`. -/
def State.withPe (v : Bool) (s : State) : State := { s with ctl := { s.ctl with pe := v } }

section Pe

variable (v : Bool) (s : State)

theorem State.withPe_closeStep (k : Nat) : (s.withPe v).closeStep k = (s.closeStep k).withPe v := by
  unfold State.closeStep
  split <;> rfl

theorem State.withPe_initiate (op : ReplyOp) (busy : TransferState) (dev : BitVec 7) (sr : Bool) (buf len : Word)
    (k : Nat) : (s.withPe v).initiate op busy dev sr buf len k = (s.initiate op busy dev sr buf len k).withPe v := by
  unfold State.initiate
  split <;> rfl

theorem State.withPe_receiveByte : (s.withPe v).receiveByte = s.receiveByte.withPe v := by
  have hctx : (s.withPe v).ctx = s.ctx := rfl
  simp only [State.receiveByte, hctx]
  split <;> rfl

/-- No micro-step of a rule other than PE and DEINIT sees `Ctl(PE)`. -/
theorem microOf_withPe {i : Instr} (hpe : ∀ en, i ≠ .pe en) (hdeinit : i ≠ .deinit) (k : Nat) :
    microOf i k (s.withPe v) = (microOf i k s).map (State.withPe v) := by
  have hctx : (s.withPe v).ctx = s.ctx := rfl
  have hlaunch : (s.withPe v).launch = s.launch := rfl
  have hadmits a : (s.withPe v).admits a = s.admits a := rfl
  have hrecord a : (s.withPe v).record a = (s.record a).withPe v := rfl
  cases i with
  | pe en => exact absurd rfl (hpe en)
  | deinit => exact absurd rfl hdeinit
  | clk | gc | cben | irqen | irqpri | stx | srx => rfl
  | closetx | closerx => exact congrArg (Micro.go (k + 1)) (s.withPe_closeStep v k)
  | init own speed duty ack =>
    simp only [microOf, microInit, hctx, hlaunch]
    split_ifs <;> rfl
  | mtx dev sr buf len =>
    simp only [microOf, microMtx, hctx, State.withPe_initiate]
    split_ifs <;> rfl
  | mrx dev sr buf len =>
    simp only [microOf, microMrx, hctx, State.withPe_initiate]
    split_ifs <;> rfl
  | flag index =>
    simp only [microOf, microFlag]
    split_ifs <;> rfl
  | evSb msl tra =>
    simp only [microOf, microSb, hctx]
    split <;> rfl
  | evAddr msl tra =>
    simp only [microOf, microAddr, hctx]
    split_ifs <;> rfl
  | evBtf msl tra =>
    simp only [microOf, microBtf, hctx, hrecord, State.withPe_closeStep]
    split_ifs <;> rfl
  | evStopf msl tra =>
    simp only [microOf, microStopf]
    split_ifs <;> rfl
  | evRxne msl tra =>
    simp only [microOf, microRxne, hctx, hadmits, hrecord,
      State.withPe_receiveByte, State.withPe_closeStep]
    split_ifs <;> rfl
  | evTxe msl tra =>
    simp only [microOf, microTxe, hctx, hadmits]
    split_ifs <;> rfl
  | err flags =>
    simp only [microOf, microErr]
    split
    · split_ifs <;> rfl
    · rfl

/-- The bookkeeping does not see `Ctl(PE)`. -/
theorem runBlind_withPe : RunBlind (State.withPe v) := by
  constructor <;> intros <;> rfl

/-- No gate reads `Ctl(PE)`. -/
theorem gateOf_withPe (i : Instr) : gateOf i (s.withPe v) = gateOf i s := by
  cases i <;> rfl

end Pe

/-- Settles O56: neither the gate, nor a micro-step, nor the bookkeeping of such a rule sees `Ctl(PE)`. -/
theorem nothingReadsPe : Obligations.NothingReadsPe := by
  intro i s v hpe hdeinit
  have hblind := runBlind_withPe v
  have hmicro k s := microOf_withPe v s hpe hdeinit k
  exact ⟨exec_map hblind s (gateOf_withPe v s i) hmicro,
    fun k => ⟨resume_map hblind s hmicro, callbackReturn_map hblind s hmicro⟩⟩

end Sys2Proof.Machine
end

section
/-! SUPPORT. The shape of the state (spec 10 R50, R51, 60 R211): what an entry of `mid` may stand on, and what pushing
an entry, a handler's entry and its exit do to the shape. -/

namespace Sys2Proof.Machine

/-- Where a rule waits does not matter to whether it may stand there. -/
theorem framesLegal_rule {c : Context} {i : Instr} {fs : List Frame} (j k : Nat)
    (h : framesLegal c (.rule i j :: fs) = true) : framesLegal c (.rule i k :: fs) = true := by
  rcases fs with _ | ⟨_ | _, _ | ⟨_ | _, _ | _⟩⟩ <;> exact h

/-- A rule stands on nothing, or, as a command of APP, on an open callback. -/
theorem framesLegal_rule_cases {c : Context} {i : Instr} {k : Nat} {fs : List Frame}
    (h : framesLegal c (.rule i k :: fs) = true) :
    (fs = [] ∧ ownRule c i = true) ∨ (isCommand i = true ∧ framesLegal c fs = true) := by
  rcases fs with _ | ⟨_ | _, _ | ⟨_ | _, _ | _⟩⟩ <;> try cases h
  · exact .inl ⟨rfl, h⟩
  · simp only [framesLegal, Bool.and_eq_true] at h ⊢
    exact .inr ⟨h.1.1, h.1.2, h.2⟩

/-- What is below a rule is legal without it. -/
theorem framesLegal_tail {c : Context} {i : Instr} {k : Nat} {fs : List Frame}
    (h : framesLegal c (.rule i k :: fs) = true) : framesLegal c fs = true := by
  obtain ⟨rfl, -⟩ | ⟨-, hfs⟩ := framesLegal_rule_cases h
  · rfl
  · exact hfs

/-- An open callback stands on one rule, the handler's own. -/
theorem framesLegal_callback_cases {c : Context} {ev : AppEvent} {cmds : List Word} {fs : List Frame}
    (h : framesLegal c (.callback ev cmds :: fs) = true) :
    ∃ i k, fs = [.rule i k] ∧ ownRule c i = true ∧ isCommand i = false := by
  rcases fs with _ | ⟨⟨i, k⟩ | _, _ | _⟩ <;> try cases h
  simp only [framesLegal, Bool.and_eq_true, Bool.not_eq_true'] at h
  exact ⟨i, k, rfl, h.1, h.2⟩

/-- MAIN begins commands alone. -/
theorem ownRule_main {i : Instr} (hc : isCommand i = false) : ownRule .main i = false := hc

/-- A presented word's rule is its handler's own (spec 60 R207). -/
theorem ownRule_handler {i : Instr} (hc : isCommand i = false) : ownRule (handlerOf (lineOfInput i)) i = true := by
  cases i with
  | evSb | evAddr | evBtf | evStopf | evRxne | evTxe | err => rfl
  | _ => cases hc

/-- The legal stacks, each written out (spec 10 R50). -/
theorem stackLegal_iff (stack : List Context) :
    stackLegal stack = true ↔ stack = [.main] ∨ stack = [.evh, .main] ∨ stack = [.erh, .main] ∨
      stack = [.erh, .evh, .main] ∨ stack = [.evh, .erh, .main] := by
  simp [stackLegal]

/-- A handler not on the stack yet may be pushed (spec 60 R211). -/
theorem stackLegal_push {stack : List Context} {l : Line} (h : stackLegal stack = true)
    (hl : stack.contains (handlerOf l) = false) : stackLegal (handlerOf l :: stack) = true := by
  rw [stackLegal_iff] at h
  rcases h with rfl | rfl | rfl | rfl | rfl <;> cases l <;> revert hl <;> decide

/-- The running context is the head of a legal stack, and what is below a handler is legal too. -/
theorem stackLegal_pop {s : State} (h : stackLegal s.stack = true) :
    s.stack = s.top :: s.stack.tail ∧ (s.top ≠ .main → stackLegal s.stack.tail = true) := by
  rw [stackLegal_iff] at h
  rcases h with h | h | h | h | h <;> simp [State.top, h, stackLegal]

namespace Shape

variable {s : State}

/-- The entries of the running context may be replaced by legal ones. -/
theorem setFrames (h : Shape s) {fs : List Frame} (hfs : framesLegal s.top fs = true) : Shape (s.setFrames fs) := by
  obtain ⟨hstack, hmid, hmem⟩ := h
  refine ⟨hstack, fun c => ?_, hmem⟩
  rw [offStackEmpty, State.setFrames_mid, State.setFrames_stack]
  by_cases hc : c = s.top
  · rw [hc, Mid.get_set_self, (stackLegal_pop hstack).1]
    simp [hfs]
  · rw [Mid.get_set_of_ne _ _ hc]
    exact hmid c

/-- A handler that may preempt enters (spec 60 R210, R214). -/
theorem enter (h : Shape s) {l : Line} (hl : s.mayPreempt l = true) : Shape (s.enter (handlerOf l)) := by
  obtain ⟨hstack, hmid, hmem⟩ := h
  simp only [State.mayPreempt, Bool.and_eq_true, Bool.not_eq_true'] at hl
  obtain ⟨hoff, -⟩ := hl
  refine ⟨stackLegal_push hstack hoff, fun c => ?_, hmem⟩
  rw [offStackEmpty, State.enter_mid, State.enter_stack]
  by_cases hc : c = handlerOf l
  · simp [hc, framesLegal]
  · obtain ⟨hframes, hempty⟩ := hmid c
    rw [Mid.get_set_of_ne _ _ hc]
    refine ⟨hframes, ?_⟩
    simpa [offStackEmpty, hc] using hempty

/-- A handler exits (spec 60 R215). -/
theorem leave (h : Shape s) (htop : s.top ≠ .main) : Shape s.leave := by
  obtain ⟨hstack, hmid, hmem⟩ := h
  obtain ⟨hcons, htail⟩ := stackLegal_pop hstack
  refine ⟨htail htop, fun c => ?_, hmem⟩
  rw [offStackEmpty, State.leave_mid, State.leave_stack]
  by_cases hc : c = s.top
  · simp [hc, framesLegal]
  · obtain ⟨hframes, hempty⟩ := hmid c
    rw [Mid.get_set_of_ne _ _ hc]
    refine ⟨hframes, ?_⟩
    rw [offStackEmpty, hcons] at hempty
    simpa [hc] using hempty

end Shape

end Sys2Proof.Machine
end

section
/-! Every step keeps the shape: a rule that runs where it may stand leaves only what may stand there (spec 10 R50,
R51, 60 R211, R216). -/

namespace Sys2Proof.Machine

/-- The running context of a state with the shape may have rule `i` begun above what it has begun. -/
def Hosts (i : Instr) (s : State) : Prop := Shape s ∧ framesLegal s.top (.rule i 0 :: s.frames) = true

/-- No command emits (spec 60 R216). -/
theorem isCommand_of_emit {i : Instr} {k k' : Nat} {s t : State} {ev : AppEvent} (h : microOf i k s = .emit ev k' t) :
    isCommand i = false := by
  cases i with
  | clk | deinit | pe | gc | cben | irqen | irqpri | closetx | closerx | stx | srx => cases h
  | init => simp only [microOf, microInit] at h; split_ifs at h
  | mtx => simp only [microOf, microMtx] at h; split_ifs at h
  | mrx => simp only [microOf, microMrx] at h; split_ifs at h
  | flag => simp only [microOf, microFlag] at h; split_ifs at h
  | _ => rfl

section Hosts

variable {i : Instr} {rest : Nat → State → Answer} {k : Nat} {s t : State}

/-- No write of a rule touches the stack or `mid`, and a byte stored keeps the memory's canonical form. -/
theorem Write.keeps_hosts {j : Instr} (s t : State) (hw : Write j s t) (hs : Hosts i s) : Hosts i t := by
  cases hw with
  | mem tra _ a v =>
    obtain ⟨⟨hstack, hmid, hmem⟩, hframes⟩ := hs
    exact ⟨⟨hstack, hmid, Memory.wf_write _ a v hmem⟩, hframes⟩
  | _ => exact hs

/-- The rule may be left waiting. -/
theorem Hosts.suspend (hs : Hosts i s) (k : Nat) : Shape (s.suspend i k) :=
  hs.1.setFrames (framesLegal_rule 0 k hs.2)

/-- A handler's rule stands on nothing, and in no other context than its handler. -/
theorem Hosts.handler (hs : Hosts i s) (hc : isCommand i = false) : s.frames = [] ∧ ownRule s.top i = true := by
  obtain h | ⟨hcmd, -⟩ := framesLegal_rule_cases hs.2
  · exact h
  · simp [hc] at hcmd

theorem Hosts.top_ne_main (hs : Hosts i s) (hc : isCommand i = false) : s.top ≠ .main := by
  intro h
  have hown := (hs.handler hc).2
  rw [h, ownRule_main hc] at hown
  cases hown

theorem ruleEnded_keepsShape (hs : Hosts i s) (h : ruleEnded i s = .next t) : Shape t := by
  unfold ruleEnded at h
  split at h
  · cases h; exact hs.1
  · next hc =>
    cases h
    simp only [Bool.or_eq_true, not_or, Bool.not_eq_true] at hc
    exact hs.1.leave (hs.top_ne_main hc.1)

theorem proceed_keepsShape (hrest : ∀ k s t, Hosts i s → rest k s = .next t → Shape t) (hs : Hosts i s)
    (h : proceed i rest k s = .next t) : Shape t := by
  have helapsed : Hosts i s.elapse := hs
  unfold proceed at h
  split at h
  · exact ruleEnded_keepsShape helapsed h
  · split at h
    · cases h; exact helapsed.suspend k
    · exact hrest _ _ _ helapsed h

theorem emitted_keepsShape {ev : AppEvent} (hc : isCommand i = false)
    (hrest : ∀ k s t, Hosts i s → rest k s = .next t → Shape t) (hs : Hosts i s)
    (h : emitted i rest ev k s = .next t) : Shape t := by
  have hcalled : Hosts i (s.record (.cb ev)).appTaken := hs
  unfold emitted at h
  split at h
  · exact proceed_keepsShape hrest hcalled h
  · cases h
    obtain ⟨hnone, hown⟩ := hcalled.handler hc
    refine (hcalled.suspend k).setFrames ?_
    rw [State.suspend_frames, hnone]
    simp only [framesLegal, Bool.and_eq_true, Bool.not_eq_true']
    exact ⟨hown, hc⟩

theorem stuckAt_keepsShape {a : Word} (hs : Hosts i s) (h : stuckAt i k a s = .next t) : Shape t := by
  unfold stuckAt at h
  split at h
  · cases h
  · cases h; exact hs.suspend k

/-- A rule that runs where it may stand leaves a state with the shape, wherever it stops. -/
theorem runRule_keepsShape {n : Nat} (hs : Hosts i s) (h : runRule i (microOf i) n k s = .next t) : Shape t := by
  induction n generalizing k s t with
  | zero => cases h; exact hs.suspend k
  | succ n ih =>
    have hrest k s t (hs : Hosts i s) : runRule i (microOf i) n k s = .next t → Shape t := ih hs
    have hm : (microOf i k s).Leaves (Hosts i) := microOf_keeps Write.keeps_hosts hs
    rw [runRule_succ] at h
    cases hmicro : microOf i k s with
    | go k1 s1 => rw [hmicro] at hm h; exact proceed_keepsShape hrest hm h
    | done s1 => rw [hmicro] at hm h; exact ruleEnded_keepsShape (s := s1.elapse) hm h
    | emit ev k1 s1 =>
      rw [hmicro] at hm h
      exact emitted_keepsShape (isCommand_of_emit hmicro) hrest hm h
    | raise c => rw [hmicro] at h; cases h; exact hs.suspend k
    | stuck a => rw [hmicro] at h; exact stuckAt_keepsShape hs h

/-- A command issued where it may stand. -/
theorem exec_command_keepsShape (hc : isCommand i = true) (hs : Hosts i s) (h : exec i s = .next t) : Shape t := by
  rw [exec_command i s hc] at h
  unfold runCommand at h
  split at h
  · cases h; exact hs.1
  · exact runRule_keepsShape hs h

/-- A presented word, whose handler enters where it may preempt. -/
theorem exec_handler_keepsShape (hc : isCommand i = false) (hs : Shape s) (h : exec i s = .next t) : Shape t := by
  cases hstarts : s.starts i with
  | false => rw [exec_discarded hc hstarts] at h; cases h; exact hs
  | true =>
    have hpre : s.mayPreempt (lineOfInput i) = true := (Bool.and_eq_true_iff.1 hstarts).2
    have hentered : Hosts i (s.entered i) := by
      refine ⟨hs.enter hpre, ?_⟩
      rw [State.entered_frames]
      exact ownRule_handler hc
    cases hd : s.due with
    | false => rw [exec_begins hc hstarts hd] at h; exact runRule_keepsShape hentered h
    | true => rw [exec_waits_at_entry hc hstarts hd] at h; cases h; exact hentered.suspend 1

end Hosts

section Moves

variable {s t : State}

/-- A word that is due is the first to be presented. -/
theorem State.pres_of_due (hd : s.due = true) : ∃ w ps, s.pres = ⟨0, w⟩ :: ps := by
  unfold State.due at hd
  rcases hp : s.pres with _ | ⟨⟨after, w⟩, ps⟩ <;> rw [hp] at hd
  · cases hd
  · exact ⟨w, ps, by simpa [dueNow] using hd⟩

theorem handlerOf_ne_main (l : Line) : handlerOf l ≠ .main := by cases l <;> nofun

theorem runReserved_keepsShape {l : Line} (hs : Shape s) (h : runReserved l s = .next t) : Shape t := by
  unfold runReserved at h
  split at h
  · next hpre =>
    have hentered := hs.enter (Bool.and_eq_true_iff.1 hpre).2
    split at h
    · cases h; exact hentered
    · cases h; exact hentered.leave (handlerOf_ne_main l)
  · cases h; exact hs

/-- An agent puts out words in states with the shape, of which an input of its port keeps the shape. -/
theorem fetchInput_keepsShape {a : Agent} {w : Word} {ws : List Word} {put : List Word → State}
    (hput : ∀ rest, Shape (put rest))
    (hexec : ∀ i rest, a.issues (portClass w) = true → decode (w :: ws) = .instr i rest →
      exec i (put rest) = .next t → Shape t)
    (h : (match fetchInput a w ws put with | .exec i s => exec i s | .answer b => b) = .next t) : Shape t := by
  cases ha : a.issues (portClass w) with
  | false => rw [fetchInput_off ha] at h; cases h
  | true =>
    cases hd : decode (w :: ws) with
    | instr i rest => rw [fetchInput_instr ha hd] at h; exact hexec i rest ha hd h
    | ignored rest => rw [fetchInput_ignored ha hd] at h; exact runReserved_keepsShape (hput rest) h
    | illegal why rest => rw [fetchInput_illegal ha hd] at h; cases h; exact hput rest

/-- What MAIN and APP put out and is executed is a command (spec 60 R221). -/
theorem isCommand_of_issued {a : Agent} {w : Word} {ws rest : List Word} {i : Instr} (ha : a = .main ∨ a = .app)
    (hport : a.issues (portClass w) = true) (hd : decode (w :: ws) = .instr i rest) : isCommand i = true := by
  obtain ⟨hc, -⟩ | ⟨-, hw⟩ := portClass_of_decode hd
  · exact hc
  · rcases ha with rfl | rfl <;> rcases hw with hw | hw <;> simp [hw, Agent.issues] at hport

/-- What PERIPH presents and is executed is no command (spec 60 R221). -/
theorem isCommand_of_presented {w : Word} {ws rest : List Word} {i : Instr}
    (hport : Agent.periph.issues (portClass w) = true) (hd : decode (w :: ws) = .instr i rest) :
    isCommand i = false := by
  obtain ⟨-, hw⟩ | ⟨hc, -⟩ := portClass_of_decode hd
  · simp [hw, Agent.issues] at hport
  · exact hc

/-- The running context's own move, for each shape of what it has begun (spec 60 R229). -/
theorem fetchOwn_keepsShape (hs : Shape s)
    (h : (match fetchOwn s with | .exec i s => exec i s | .answer b => b) = .next t) : Shape t := by
  obtain ⟨hlegal, -⟩ : framesLegal s.top s.frames = true ∧ _ := hs.2.1 s.top
  have hhosts {i k fs} (hfs : framesLegal s.top (.rule i k :: fs) = true) : Hosts i (s.setFrames fs) := by
    refine ⟨hs.setFrames (framesLegal_tail hfs), ?_⟩
    rw [State.setFrames_frames]
    exact framesLegal_rule k 0 hfs
  unfold fetchOwn at h
  cases hfr : s.frames with
  | nil =>
    simp only [hfr] at h
    cases htop : s.top with
    | main =>
      simp only [htop] at h
      cases hin : s.mainIn with
      | nil => simp only [hin] at h; cases h; exact hs
      | cons w ws =>
        simp only [hin] at h
        have hput (rest : List Word) : Shape { s with mainIn := rest } := hs
        refine fetchInput_keepsShape hput (fun i rest hport hd h => ?_) h
        have hc := isCommand_of_issued (.inl rfl) hport hd
        refine exec_command_keepsShape hc ⟨hput rest, ?_⟩ h
        change framesLegal s.top (.rule i 0 :: s.frames) = true
        rw [htop, hfr]
        exact hc
    | evh | erh => simp only [htop] at h; cases h; exact hs.leave (by simp [htop])
  | cons f fs =>
    simp only [hfr] at h
    rw [hfr] at hlegal
    cases f with
    | rule i k => exact runRule_keepsShape (hhosts hlegal) h
    | callback ev cmds =>
      obtain ⟨i, k, rfl, hown, hi⟩ := framesLegal_callback_cases hlegal
      cases cmds with
      | nil =>
        exact proceed_keepsShape (fun _ _ _ => runRule_keepsShape) (hhosts (k := k) (fs := []) hown) h
      | cons w ws =>
        have hput (rest : List Word) : Shape (s.setFrames [.callback ev rest, .rule i k]) := hs.setFrames hlegal
        refine fetchInput_keepsShape hput (fun j rest hport hd h => ?_) h
        have hc := isCommand_of_issued (.inr rfl) hport hd
        refine exec_command_keepsShape hc ⟨hput rest, ?_⟩ h
        simp [framesLegal, hc, hown, hi]

end Moves

/-- Settles O53: PERIPH's word enters its handler where that may preempt, and the running context's own move leaves
only what may stand there. -/
theorem stepKeepsShape : Obligations.StepKeepsShape := by
  intro s t hs h
  unfold step at h
  cases hf : s.fault with
  | some c => rw [fetch_marked hf] at h; cases h
  | none =>
    cases hd : s.due with
    | false => rw [fetch_own hf hd] at h; exact fetchOwn_keepsShape hs h
    | true =>
      obtain ⟨w, ps, hp⟩ := State.pres_of_due hd
      rw [fetch_due hf hp] at h
      have hput (_ : List Word) : Shape { s with pres := ps } := hs
      exact fetchInput_keepsShape hput
        (fun i rest hport hd h => exec_handler_keepsShape (isCommand_of_presented hport hd) (hput rest) h) h

end Sys2Proof.Machine
end

section
/-! SUPPORT. One round of a rule, by what its micro-step answers (spec 00 R9), and the data steps of RXNE and TXE, each
said once (42 R145, R146; 20 R65 to R67). -/

namespace Sys2Proof.Machine

section Rounds

variable {i : Instr} {micro : Nat → State → Micro} {n k j : Nat} {s t : State} {a : Word}

/-- A rule with micro-steps left goes on where no word falls due. -/
theorem runRule_go_quiet (hm : micro k s = .go j t) (hj : j ≤ lastStep i) (hq : t.quiet 1 = true) :
    runRule i micro (n + 1) k s = runRule i micro n j (t.elapsed 1) := by
  rw [runRule_succ, hm]
  exact proceed_quiet _ _ _ _ hj hq

/-- A handler whose rule has ended exits where no word falls due up to then (spec 60 R215). -/
theorem ruleEnded_exits (hc : isCommand i = false) (hq : t.quiet 1 = true) :
    ruleEnded i (t.elapsed 1) = .next (t.leave.elapsed 2) := by
  have hdue : (t.elapsed 1).due = false := by simp [hq]
  rw [ruleEnded_handler i _ hc hdue]
  exact congrArg _ (State.elapsed_elapsed t.leave 1 1)

/-- A handler whose rule says `end` exits (spec 60 R215). -/
theorem runRule_done_exits (hc : isCommand i = false) (hm : micro k s = .done t) (hq : t.quiet 1 = true) :
    runRule i micro (n + 1) k s = .next (t.leave.elapsed 2) := by
  rw [runRule_succ, hm]
  exact ruleEnded_exits hc hq

/-- A handler whose rule runs past its last micro-step exits (spec 60 R215). -/
theorem runRule_last_exits (hc : isCommand i = false) (hm : micro k s = .go j t) (hj : lastStep i < j)
    (hq : t.quiet 1 = true) : runRule i micro (n + 1) k s = .next (t.leave.elapsed 2) := by
  rw [runRule_succ, hm]
  exact (proceed_ended _ _ _ _ hj).trans (ruleEnded_exits hc hq)

/-- At an access that has no step the machine stops when no word is to come (spec 60 R203; log 10). -/
theorem runRule_stuck_stops (hm : micro k s = .stuck a) (hp : s.pres = []) :
    runRule i micro (n + 1) k s = .fault (.stuck a) := by
  simp only [runRule_succ, hm, stuckAt, hp]

/-- At an access that has no step the rule stays at its micro-step while words are to come (spec 60 R203; log 10). -/
theorem runRule_stuck_waits (hm : micro k s = .stuck a) (hp : s.pres ≠ []) :
    runRule i micro (n + 1) k s = .next ((s.suspend i k).elapsed 1) := by
  obtain ⟨p, ps, hcons⟩ := List.exists_cons_of_ne_nil hp
  simp only [runRule_succ, hm, stuckAt, hcons, State.elapse_eq]

end Rounds

section DataSteps

variable {tra : Bool} {s : State}

/-- RXNE's data step, field by field (spec 42 R145). -/
theorem State.receiveByte_eq (s : State) :
    s.receiveByte = { s with
      ctx := { s.ctx with buf := s.ctx.buf + 1, rem := s.ctx.rem - 1 }
      ctl := if s.ctx.rem = 2 then { s.ctl with ack := false } else s.ctl
      mem := Memory.write s.mem s.ctx.buf.toNat (Config.drawByte s.draws)
      draws := s.draws + 1
      hist := s.hist ++ tagged s.top ((if s.ctx.rem = 2 then [.ctl .ack 0] else []) ++
        [.busDrr (Config.drawByte s.draws), .memW s.ctx.buf (Config.drawByte s.draws)]) } := by
  by_cases hrem : s.ctx.rem = 2
  · simp only [State.receiveByte, if_pos hrem]
    ext1 <;> simp [tagged]
  · simp only [State.receiveByte, if_neg hrem]
    ext1 <;> simp [tagged]

@[simp] theorem State.receiveByte_quiet (s : State) (k : Nat) : s.receiveByte.quiet k = s.quiet k := by
  rw [State.receiveByte_eq]; rfl

/-- TXE's data step, field by field (spec 42 R146). -/
theorem State.sendByte_eq (s : State) :
    s.sendByte = { s with
      ctx := { s.ctx with buf := s.ctx.buf + 1, rem := s.ctx.rem - 1 }
      hist := s.hist ++ tagged s.top
        [.memR s.ctx.buf (Memory.read s.mem s.ctx.buf.toNat), .busDrw (Memory.read s.mem s.ctx.buf.toNat)] } := by
  ext1 <;> simp [State.sendByte, tagged]

/-- RXNE takes a byte at an admitted address (spec 42 R145). -/
theorem microRxne_receives (hstate : s.ctx.state = .busyRx) (hrem : s.ctx.rem ≠ 0)
    (hadmit : s.admits s.ctx.buf = true) : microRxne true tra 1 s = .go 2 s.receiveByte := by
  simp only [microRxne, hstate, hadmit]
  simpa using hrem

/-- RXNE has no step at an address not admitted (spec 20 R66). -/
theorem microRxne_stuck (hstate : s.ctx.state = .busyRx) (hrem : s.ctx.rem ≠ 0)
    (hadmit : s.admits s.ctx.buf = false) : microRxne true tra 1 s = .stuck s.ctx.buf := by
  simp only [microRxne, hstate, hadmit]
  simpa using hrem

/-- RXNE ends after its data step while bytes are left (spec 42 R145). -/
theorem microRxne_bytes_left (hrem : s.ctx.rem ≠ 0) : microRxne true tra 2 s = .done s := by
  simpa [microRxne] using hrem

/-- TXE sends a byte from an admitted address (spec 42 R146). -/
theorem microTxe_sends (hstate : s.ctx.state = .busyTx) (hrem : s.ctx.rem ≠ 0)
    (hadmit : s.admits s.ctx.buf = true) : microTxe true tra 1 s = .go 2 s.sendByte := by
  simp only [microTxe, hstate, hadmit]
  simpa using hrem

/-- TXE has no step at an address not admitted (spec 20 R66). -/
theorem microTxe_stuck (hstate : s.ctx.state = .busyTx) (hrem : s.ctx.rem ≠ 0)
    (hadmit : s.admits s.ctx.buf = false) : microTxe true tra 1 s = .stuck s.ctx.buf := by
  simp only [microTxe, hstate, hadmit]
  simpa using hrem

/-- The handler of a TXE or RXNE word that can start starts (spec 42 R140). -/
theorem starts_of_eventStarts_buffered (h : eventStarts s true) (msl tra : Bool) :
    s.starts (.evTxe msl tra) = true ∧ s.starts (.evRxne msl tra) = true :=
  have hstarts := Bool.and_eq_true_iff.2 h
  ⟨hstarts, hstarts⟩

end DataSteps

end Sys2Proof.Machine
end

section
/-! Master RXNE and TXE at an admitted address and at one that is not (spec 20 R66, R67, 42 R145, R146, 60 R203). -/

namespace Sys2Proof.Machine

/-- A master RXNE with two or more bytes left takes one and exits: micro-step 2 finds a byte left (spec 42 R145). -/
theorem runRule_rxne_bytes_left {n : Nat} {tra : Bool} {s : State} (hq : s.quiet 2 = true)
    (hstate : s.ctx.state = .busyRx) (hrem : 2 ≤ s.ctx.rem.toNat) (hadmit : s.admits s.ctx.buf = true) :
    runRule (.evRxne true tra) (microRxne true tra) (n + 2) 1 s = .next (s.receiveByte.leave.elapsed 3) := by
  have hsome : s.ctx.rem ≠ 0 := by bv_omega
  have hleft : (s.receiveByte.elapsed 1).ctx.rem ≠ 0 := by
    have : s.ctx.rem - 1 ≠ 0 := by bv_omega
    rwa [State.receiveByte_eq]
  have hq1 : s.receiveByte.quiet 1 = true := (s.receiveByte_quiet 1).trans (State.quiet_mono one_le_two hq)
  have hq2 : (s.receiveByte.elapsed 1).quiet 1 = true := by
    rw [State.elapsed_quiet 1 hq1, State.receiveByte_quiet]
    exact hq
  calc
    _ = runRule _ _ (n + 1) 2 (s.receiveByte.elapsed 1) :=
      runRule_go_quiet (i := .evRxne true tra) (microRxne_receives hstate hsome hadmit) (Nat.le_add_left 2 5) hq1
    _ = .next ((s.receiveByte.leave.elapsed 1).elapsed 2) :=
      runRule_done_exits rfl (microRxne_bytes_left hleft) hq2
    _ = _ := by rw [State.elapsed_elapsed]

/-- Settles O42: the handler enters, takes one byte and exits. -/
theorem rxneStoresAByte : Obligations.RxneStoresAByte := by
  intro tra s hstarts hq hstate hrem hadmit
  obtain ⟨-, hstarts⟩ := starts_of_eventStarts_buffered hstarts true tra
  rw [exec_begins rfl hstarts (State.due_of_quiet hq)]
  refine (runRule_rxne_bytes_left (s := s.entered (.evRxne true tra)) hq hstate hrem hadmit).trans ?_
  rw [State.receiveByte_eq]
  rfl

/-- Settles O45: the handler enters, sends one byte in its one micro-step and exits. -/
theorem txeSendsAByte : Obligations.TxeSendsAByte := by
  intro tra s hstarts hq hstate hrem hadmit
  obtain ⟨hstarts, -⟩ := starts_of_eventStarts_buffered hstarts true tra
  have hsends : microTxe true tra 1 (s.entered (.evTxe true tra)) = .go 2 (s.entered (.evTxe true tra)).sendByte :=
    microTxe_sends hstate hrem hadmit
  rw [exec_begins rfl hstarts (State.due_of_quiet hq)]
  refine (runRule_last_exits (i := .evTxe true tra) rfl hsends Nat.one_lt_two hq).trans ?_
  rw [State.sendByte_eq]
  rfl

/-- A handler whose rule has no first step (spec 60 R203): it stops the machine when no word is to come, and otherwise
has entered and stays there. -/
theorem exec_stuck {i : Instr} {s : State} {a : Word} (hc : isCommand i = false) (hstarts : s.starts i = true)
    (hd : s.due = false) (hm : microOf i 1 (s.entered i) = .stuck a) :
    (s.pres = [] → exec i s = .fault (.stuck a)) ∧
    (s.pres ≠ [] → exec i s = .next { s.elapsed 1 with
      stack := handlerOf (lineOfInput i) :: s.stack
      mid := s.mid.set [.rule i 1] (handlerOf (lineOfInput i)) }) := by
  rw [exec_begins hc hstarts hd]
  refine ⟨runRule_stuck_stops hm, fun hp => (runRule_stuck_waits hm hp).trans ?_⟩
  rw [State.suspend, State.entered_frames]
  congr 1
  ext1 <;> simp [State.entered]

/-- Settles O49: the one micro-step of TXE, and the first of RXNE, has no step there. -/
theorem unadmittedAccessIsStuck : Obligations.UnadmittedAccessIsStuck := by
  intro tra s hstarts hd hadmit
  obtain ⟨htxe, hrxne⟩ := starts_of_eventStarts_buffered hstarts true tra
  exact ⟨fun hstate hrem => exec_stuck rfl htxe hd (microTxe_stuck hstate hrem hadmit),
    fun hstate hrem => exec_stuck rfl hrxne hd (microRxne_stuck hstate hrem hadmit)⟩

end Sys2Proof.Machine
end

section
/-! SUPPORT. A property of the state that depends on the micro-step a rule stands at (spec 00 R9). -/

namespace Sys2Proof.Machine

/-- A micro-step leaves a state with the property `P` of the micro-step the rule then stands at; of any, where the rule
ends. -/
def Micro.LeavesAt (P : Nat → State → Prop) : Micro → Prop
  | .go k t => P k t
  | .done t => ∃ k, P k t
  | .emit _ k t => P k t
  | .raise _ => True
  | .stuck _ => True

/-- What the bookkeeping keeps at each micro-step, it keeps of any. -/
theorem kept_exists {P : Nat → State → Prop} (hP : ∀ k, Kept (P k)) : Kept fun s => ∃ k, P k s where
  elapsed s j := fun ⟨k, hs⟩ => ⟨k, (hP k).elapsed s j hs⟩
  frames s fs := fun ⟨k, hs⟩ => ⟨k, (hP k).frames s fs hs⟩
  raise s c := fun ⟨k, hs⟩ => ⟨k, (hP k).raise s c hs⟩
  callback s ev := fun ⟨k, hs⟩ => ⟨k, (hP k).callback s ev hs⟩
  enter s h := fun ⟨k, hs⟩ => ⟨k, (hP k).enter s h hs⟩
  leave s := fun ⟨k, hs⟩ => ⟨k, (hP k).leave s hs⟩

section KeepsAt

variable {P : Nat → State → Prop} {i : Instr} {micro : Nat → State → Micro} {rest : Nat → State → Answer}
  {n k : Nat} {s t : State} (hP : ∀ k, Kept (P k))
include hP

theorem proceed_keepsAt (hrest : ∀ s, P k s → rest k s = .next t → ∃ j, P j t) (hs : P k s)
    (h : proceed i rest k s = .next t) : ∃ j, P j t := by
  have helapsed : P k (s.elapsed 1) := (hP k).elapsed s 1 hs
  unfold proceed at h
  split at h
  · exact ruleEnded_keeps (kept_exists hP) ⟨k, helapsed⟩ h
  · split at h
    · cases h; exact ⟨k, (hP k).frames _ _ helapsed⟩
    · exact hrest _ helapsed h

/-- Whatever each micro-step hands on to the next, and the bookkeeping keeps, the rule leaves. -/
theorem runRule_keepsAt (hmicro : ∀ k s, P k s → (micro k s).LeavesAt P) (hs : P k s)
    (h : runRule i micro n k s = .next t) : ∃ j, P j t := by
  induction n generalizing k s with
  | zero => cases h; exact ⟨k, (hP k).frames s _ hs⟩
  | succ n ih =>
    have hm := hmicro k s hs
    rw [runRule_succ] at h
    cases he : micro k s with
    | go k1 s1 => rw [he] at hm h; exact proceed_keepsAt hP (fun _ => ih) hm h
    | done s1 =>
      rw [he] at hm h
      exact ruleEnded_keeps (kept_exists hP) ((kept_exists hP).elapsed s1 1 hm) h
    | emit ev k1 s1 =>
      rw [he] at hm h
      have hcalled := (hP k1).callback s1 ev hm
      simp only [emitted] at h
      split at h
      · exact proceed_keepsAt hP (fun _ => ih) hcalled h
      · cases h; exact ⟨k1, (hP k1).frames _ _ ((hP k1).frames _ _ hcalled)⟩
    | raise c => rw [he] at h; cases h; exact ⟨k, (hP k).raise _ c ((hP k).frames s _ hs)⟩
    | stuck a =>
      rw [he] at h
      simp only [stuckAt] at h
      split at h
      · cases h
      · cases h; exact ⟨k, (hP k).elapsed _ 1 ((hP k).frames s _ hs)⟩

/-- A handler's rule leaves what its micro-steps hand on and the bookkeeping keeps, begun, resumed or gone on with
after a callback. -/
theorem Runs.keepsAt (hrun : Runs i s t) (hc : isCommand i = false)
    (hmicro : ∀ k s, P k s → (microOf i k s).LeavesAt P) (hs : ∀ k, P k s) : ∃ j, P j t := by
  obtain h | ⟨k, h⟩ | ⟨k, h⟩ := hrun
  · have hentered : P 1 (s.entered i) := (hP 1).enter s _ (hs 1)
    cases hstarts : s.starts i with
    | false => rw [exec_discarded hc hstarts] at h; cases h; exact ⟨1, hs 1⟩
    | true =>
      cases hd : s.due with
      | false => rw [exec_begins hc hstarts hd] at h; exact runRule_keepsAt hP hmicro hentered h
      | true =>
        rw [exec_waits_at_entry hc hstarts hd] at h
        cases h
        exact ⟨1, (hP 1).frames _ _ hentered⟩
  · exact runRule_keepsAt hP hmicro (hs k) h
  · exact proceed_keepsAt hP (fun _ => runRule_keepsAt hP hmicro) (hs k) h

end KeepsAt

end Sys2Proof.Machine
end

section
/-! Who writes the buffer memory, and where (spec 20 R60, R63). -/

namespace Sys2Proof.Machine

/-- Only a master RXNE writes memory. -/
theorem Runs.mem {i : Instr} {s t : State} (hrun : Runs i s t) (hi : ∀ tra, i ≠ .evRxne true tra) :
    t.mem = s.mem := by
  have hkept : Kept fun t => t.mem = s.mem :=
    ⟨fun _ _ => id, fun _ _ => id, fun _ _ => id, fun _ _ => id, fun _ _ => id, fun _ => id⟩
  refine hrun.keeps hkept ?_ rfl
  intro u v hw hu
  cases hw with
  | mem tra => exact absurd rfl (hi tra)
  | _ => exact hu

@[simp] theorem State.closeStep_mem (s : State) (k : Nat) : (s.closeStep k).mem = s.mem := by
  unfold State.closeStep
  split <;> rfl

/-- At micro-step `k` of a master RXNE run from `s`: the byte at `s.ctx.buf` is the only one that may have been written,
and none has been where the data step, micro-step 1, is still to come. -/
def StoresOnce (s : State) (k : Nat) (t : State) : Prop :=
  (k ≤ 1 → t.mem = s.mem ∧ t.ctx.buf = s.ctx.buf) ∧
    ∀ a, a ≠ s.ctx.buf.toNat → Memory.read t.mem a = Memory.read s.mem a

namespace StoresOnce

variable {s t u : State} {j k : Nat}

theorem kept (s : State) (k : Nat) : Kept (StoresOnce s k) :=
  ⟨fun _ _ => id, fun _ _ => id, fun _ _ => id, fun _ _ => id, fun _ _ => id, fun _ => id⟩

theorem refl (s : State) (k : Nat) : StoresOnce s k s := ⟨fun _ => ⟨rfl, rfl⟩, fun _ _ => rfl⟩

/-- What comes after the data step leaves memory. -/
theorem later (h : StoresOnce s j t) (hk : 1 < k) (hmem : u.mem = t.mem) : StoresOnce s k u :=
  ⟨fun hk1 => absurd hk1 hk.not_ge, fun a ha => by rw [hmem]; exact h.2 a ha⟩

/-- The data step stores its byte at the address that `s.ctx.buf` holds. -/
theorem receiveByte (hwf : Memory.wf s.mem = true) (h : StoresOnce s 1 t) : StoresOnce s 2 t.receiveByte := by
  obtain ⟨hmem, hbuf⟩ := h.1 le_rfl
  refine ⟨nofun, fun a ha => ?_⟩
  rw [State.receiveByte_eq, hmem, hbuf]
  exact Memory.read_write_ne _ _ _ _ ha 0 hwf

/-- Every micro-step of a master RXNE hands the property on to the next. -/
theorem microRxne (hwf : Memory.wf s.mem = true) (tra : Bool) (k : Nat) (t : State) (h : StoresOnce s k t) :
    (Machine.microRxne true tra k t).LeavesAt (StoresOnce s) := by
  simp only [Machine.microRxne, if_true]
  split_ifs with h1 _ _ _ h2
  · exact ⟨k, h⟩
  · trivial
  · subst h1; exact h.receiveByte hwf
  · trivial
  · exact ⟨k, h⟩
  · exact h.later (by decide) rfl
  · exact h.later (by decide) rfl
  · exact h.later (by decide) rfl
  · rcases Nat.eq_zero_or_pos k with rfl | hk
    · exact ⟨fun _ => h.1 (Nat.zero_le 1), h.2⟩
    · exact h.later (Nat.lt_succ_of_le hk) (t.closeStep_mem _)

end StoresOnce

/-- Settles O59: memory is written by no rule but a master RXNE, and by that one at its data step alone. -/
theorem onlyReceiveWritesMemory : Obligations.OnlyReceiveWritesMemory := by
  intro i s t hrun
  refine ⟨hrun.mem, fun hwf a ha => ?_⟩
  by_cases hi : ∃ tra, i = .evRxne true tra
  · obtain ⟨tra, rfl⟩ := hi
    obtain ⟨-, -, hread⟩ := hrun.keepsAt (StoresOnce.kept s) rfl (StoresOnce.microRxne hwf tra) (.refl s)
    exact hread a ha
  · rw [hrun.mem (not_exists.1 hi)]

end Sys2Proof.Machine
end

section
/-! SUPPORT. The fields of a word (spec 30 R80, R81), as numbers and as the bits under a mask, and the fields of a word
made from an opcode and a body. -/

namespace Sys2Proof

section Fields

variable {v w m : Word} {lo n i : Nat}

theorem field_toNat (w : Word) (lo n : Nat) : (field w lo n).toNat = w.toNat / 2 ^ lo % 2 ^ n := by
  rw [field, BitVec.extractLsb'_toNat, Nat.shiftRight_eq_div_pow]

theorem field_eq_iff {x : BitVec n} : field w lo n = x ↔ w.toNat / 2 ^ lo % 2 ^ n = x.toNat := by
  rw [← BitVec.toNat_inj, field_toNat]

theorem zeroAt_iff : zeroAt w lo n = true ↔ w.toNat / 2 ^ lo % 2 ^ n = 0 := by
  rw [zeroAt, beq_iff_eq, field_eq_iff, BitVec.toNat_zero]

theorem bitAt_eq_iff {b : Bool} : bitAt w i = b ↔ w.toNat / 2 ^ i % 2 = bit b := by
  have hbit : bitAt w i = true ↔ w.toNat / 2 ^ i % 2 = 1 := by
    rw [bitAt, beq_iff_eq, field_eq_iff]; rfl
  cases b
  · rw [← Bool.not_eq_true, hbit, bit]
    simp
  · exact hbit

theorem opcodeOf_eq (w : Word) : opcodeOf w = w.toNat / 2 ^ 24 % 2 ^ 6 := field_toNat w 24 6

theorem portClass_congr (h31 : bitAt v 31 = bitAt w 31) (h30 : bitAt v 30 = bitAt w 30) :
    portClass v = portClass w := by
  rw [portClass, portClass, h31, h30]

/-- The word whose 1 bits are the `n` bits from bit `lo` up. -/
def fieldMask (lo n : Nat) : Word := (BitVec.allOnes n).setWidth 32 <<< lo

theorem and_fieldMask (w : Word) (lo n : Nat) : w &&& fieldMask lo n = (field w lo n).setWidth 32 <<< lo := by
  refine BitVec.eq_of_getLsbD_eq fun i hi => ?_
  by_cases hlo : lo ≤ i
  · have hbit : i - lo < 32 := by omega
    simp [field, fieldMask, hi, Nat.add_sub_cancel' hlo, Bool.and_comm, Bool.and_assoc]
  · simp [fieldMask, Nat.lt_of_not_le hlo]

/-- A field is what its mask leaves of the word. -/
theorem field_and_fieldMask (hn : lo + n ≤ 32) : field (w &&& fieldMask lo n) lo n = field w lo n := by
  refine BitVec.eq_of_getLsbD_eq fun i hi => ?_
  have hlo : lo + i < 32 := by omega
  simp [field, fieldMask, hi, hlo]

/-- A reserved field is 0 exactly where no 1 bit of the word is under its mask (spec 30 R91). -/
theorem zeroAt_eq_and_fieldMask (hn : lo + n ≤ 32) : zeroAt w lo n = (w &&& fieldMask lo n == 0) := by
  rw [zeroAt, Bool.eq_iff_iff, beq_iff_eq, beq_iff_eq]
  constructor
  · intro h
    rw [and_fieldMask, h]
    simp
  · intro h
    rw [← field_and_fieldMask hn, h]
    simp [field]

/-- Words that agree under a mask agree on every field the mask covers. -/
theorem field_congr (h : v &&& m = w &&& m) (hm : m &&& fieldMask lo n = fieldMask lo n) (hn : lo + n ≤ 32) :
    field v lo n = field w lo n := by
  rw [← field_and_fieldMask hn, ← field_and_fieldMask (w := w) hn, ← hm, ← BitVec.and_assoc, h, BitVec.and_assoc]

theorem bitAt_congr (h : v &&& m = w &&& m) (hm : m &&& fieldMask i 1 = fieldMask i 1) (hi : i + 1 ≤ 32) :
    bitAt v i = bitAt w i := by
  rw [bitAt, bitAt, field_congr h hm hi]

theorem opcodeOf_congr (h : v &&& m = w &&& m) (hm : m &&& fieldMask 24 6 = fieldMask 24 6) :
    opcodeOf v = opcodeOf w := by
  rw [opcodeOf, opcodeOf, field_congr h hm (by decide)]

end Fields

end Sys2Proof
end

section
/-! SUPPORT. The decoder by the class of the first word (spec 30 R80, R94). -/

namespace Sys2Proof

variable {w buf len : Word} {ws rest : List Word}

/-- A C3 command is opened by a class-00 word with one of the two opcodes (spec 30 R94). -/
theorem isC3_iff : isC3 w = true ↔ portClass w = .command ∧ (opcodeOf w = 0x10 ∨ opcodeOf w = 0x11) := by
  simp [isC3]

theorem decode_reserved (h : portClass w = .reserved) : decode (w :: ws) = .illegal .reservedClass ws := by
  simp only [decode, h]

theorem decode_event (h : portClass w = .event) : decode (w :: ws) = ofPort (decodeEvent w) ws := by
  simp only [decode, h]

theorem decode_error (h : portClass w = .error) : decode (w :: ws) = ofPort (decodeError w) ws := by
  simp only [decode, h]

theorem decode_c3 (h : isC3 w = true) : decode (w :: buf :: len :: rest) = ofCommand (decodeC3 w buf len) rest := by
  obtain ⟨hclass, -⟩ := isC3_iff.1 h
  simp only [decode, hclass, h, if_true]

theorem decode_c1 (hclass : portClass w = .command) (h : isC3 w = false) :
    decode (w :: ws) = ofCommand (decodeC1 w) ws := by
  simp [decode, hclass, h]

/-- What a port's reading can be. -/
theorem ofPort_cases (o : Option Instr) : (∃ i, ofPort o ws = .instr i ws) ∨ ofPort o ws = .ignored ws := by
  cases o with
  | none => exact .inr rfl
  | some i => exact .inl ⟨i, rfl⟩

theorem ofCommand_cases (r : Except DecodeError Instr) :
    (∃ i, ofCommand r ws = .instr i ws) ∨ ∃ why, ofCommand r ws = .illegal why ws := by
  cases r with
  | ok i => exact .inl ⟨i, rfl⟩
  | error why => exact .inr ⟨why, rfl⟩

/-- A command is illegal exactly where it is read as no command. -/
theorem ofCommand_illegal_iff (r : Except DecodeError Instr) :
    (∃ why rest, ofCommand r ws = .illegal why rest) ↔ ∃ why, r = .error why := by
  cases r <;> simp [ofCommand]

end Sys2Proof
end

section
/-! The decoder reads back what the encoder writes (spec 30 R81 to R85, R94): each field of a word comes back from the
number the word is. -/

namespace Sys2Proof

@[simp] theorem bit_false : bit false = 0 := rfl

@[simp] theorem bit_true : bit true = 1 := rfl

theorem bit_lt_two (b : Bool) : bit b < 2 := by cases b <;> decide

theorem Speed.value_lt_two (speed : Speed) : speed.value < 2 := by cases speed <;> decide

theorem Duty.value_lt_two (duty : Duty) : duty.value < 2 := by cases duty <;> decide

theorem Line.value_lt_two (line : Line) : line.value < 2 := by cases line <;> decide

section Read

variable {w : Word} {i opcode body : Nat}

theorem speedOf_bitAt {speed : Speed} (h : w.toNat / 2 ^ i % 2 = speed.value) : speedOf (bitAt w i) = speed := by
  cases speed
  · rw [bitAt_eq_iff (b := false) |>.2 h]; rfl
  · rw [bitAt_eq_iff (b := true) |>.2 h]; rfl

theorem dutyOf_bitAt {duty : Duty} (h : w.toNat / 2 ^ i % 2 = duty.value) : dutyOf (bitAt w i) = duty := by
  cases duty
  · rw [bitAt_eq_iff (b := false) |>.2 h]; rfl
  · rw [bitAt_eq_iff (b := true) |>.2 h]; rfl

theorem lineOf_bitAt {line : Line} (h : w.toNat / 2 ^ i % 2 = line.value) : lineOf (bitAt w i) = line := by
  cases line
  · rw [bitAt_eq_iff (b := false) |>.2 h]; rfl
  · rw [bitAt_eq_iff (b := true) |>.2 h]; rfl

/-- The head of a class-00 word (spec 30 R80, R81). -/
theorem class_and_opcode_of_toNat (h : w.toNat = opcode * 2 ^ 24 + body) (hop : opcode < 2 ^ 6)
    (hbody : body < 2 ^ 24) : portClass w = .command ∧ opcodeOf w = opcode := by
  have h31 : bitAt w 31 = false := bitAt_eq_iff.2 (by rw [bit_false]; omega)
  have h30 : bitAt w 30 = false := bitAt_eq_iff.2 (by rw [bit_false]; omega)
  constructor
  · simp [portClass, h31, h30]
  · rw [opcodeOf_eq]; omega

theorem errorWord_toNat (flags : BitVec 5) : (errorWord flags).toNat = 2 ^ 31 + flags.toNat := by
  rw [errorWord, BitVec.toNat_ofNat]
  omega

theorem portClass_errorWord (flags : BitVec 5) : portClass (errorWord flags) = .error := by
  have h := errorWord_toNat flags
  have h31 : bitAt (errorWord flags) 31 = true := bitAt_eq_iff.2 (by rw [bit_true]; omega)
  have h30 : bitAt (errorWord flags) 30 = false := bitAt_eq_iff.2 (by rw [bit_false]; omega)
  simp [portClass, h31, h30]

theorem decodeError_errorWord (flags : BitVec 5) : decodeError (errorWord flags) = some (.err flags) := by
  have h := errorWord_toNat flags
  have hop : opcodeOf (errorWord flags) = 0 := by rw [opcodeOf_eq]; omega
  have hflags : field (errorWord flags) 0 5 = flags := field_eq_iff.2 (by omega)
  simp [decodeError, hop, hflags]

theorem commandWord_toNat (hop : opcode < 2 ^ 6) (hbody : body < 2 ^ 24) :
    (commandWord opcode body).toNat = opcode * 2 ^ 24 + body := by
  rw [commandWord, BitVec.toNat_ofNat]
  omega

/-- A command of one word is read as `decodeC1` reads the word's number. -/
theorem decode_commandWord {i : Instr} {rest : List Word} (hop : opcode < 2 ^ 6)
    (hc3 : ¬(opcode = 0x10 ∨ opcode = 0x11)) (hbody : body < 2 ^ 24)
    (hread : ∀ w, w.toNat = opcode * 2 ^ 24 + body → opcodeOf w = opcode → decodeC1 w = .ok i) :
    decode (commandWord opcode body :: rest) = .instr i rest := by
  have hnum := commandWord_toNat hop hbody
  obtain ⟨hclass, hcode⟩ := class_and_opcode_of_toNat hnum hop hbody
  have hone : isC3 (commandWord opcode body) = false := by
    rw [← Bool.not_eq_true, isC3_iff, hcode]
    exact fun h => hc3 h.2
  rw [decode_c1 hclass hone, hread _ hnum hcode]
  rfl

theorem decode_encode_init (own : BitVec 7) (speed : Speed) (duty : Duty) (ack : Bool) (rest : List Word) :
    decode (encode (.init own speed duty ack) ++ rest) = .instr (.init own speed duty ack) rest := by
  have := bit_lt_two ack
  have := duty.value_lt_two
  have := speed.value_lt_two
  refine decode_commandWord (by decide) (by decide) (by omega) fun w h hop => ?_
  have hzero : (zeroAt w 11 13 && zeroAt w 7 1) = true := by
    rw [Bool.and_eq_true_iff, zeroAt_iff, zeroAt_iff]; omega
  have hown : field w 0 7 = own := field_eq_iff.2 (by omega)
  have hspeed : speedOf (bitAt w 8) = speed := speedOf_bitAt (by omega)
  have hduty : dutyOf (bitAt w 9) = duty := dutyOf_bitAt (by omega)
  have hack : bitAt w 10 = ack := bitAt_eq_iff.2 (by omega)
  simp only [decodeC1, hop, hzero, hown, hspeed, hduty, hack, if_true]

theorem decode_encode_irqpri (line : Line) (prio : Byte) (rest : List Word) :
    decode (encode (.irqpri line prio) ++ rest) = .instr (.irqpri line prio) rest := by
  have := line.value_lt_two
  refine decode_commandWord (by decide) (by decide) (by omega) fun w h hop => ?_
  have hzero : (zeroAt w 16 8 && zeroAt w 2 6 && zeroAt w 0 1) = true := by
    rw [Bool.and_eq_true_iff, Bool.and_eq_true_iff, zeroAt_iff, zeroAt_iff, zeroAt_iff]; omega
  have hline : lineOf (bitAt w 1) = line := lineOf_bitAt (by omega)
  have hprio : field w 8 8 = prio := field_eq_iff.2 (by omega)
  simp only [decodeC1, hop, hzero, hline, hprio, if_true]

theorem decode_encode_stx (value : Byte) (rest : List Word) :
    decode (encode (.stx value) ++ rest) = .instr (.stx value) rest := by
  refine decode_commandWord (by decide) (by decide) (by omega) fun w h hop => ?_
  have hzero : zeroAt w 8 16 = true := by rw [zeroAt_iff]; omega
  have hvalue : field w 0 8 = value := field_eq_iff.2 (by omega)
  simp only [decodeC1, hop, hzero, hvalue, if_true]

theorem decode_encode_flag (index : BitVec 5) (rest : List Word) (hwf : (Instr.flag index).wf = true) :
    decode (encode (.flag index) ++ rest) = .instr (.flag index) rest := by
  have hlegal : flagIndexLegal index = true := hwf
  refine decode_commandWord (by decide) (by decide) (by omega) fun w h hop => ?_
  have hzero : zeroAt w 5 19 = true := by rw [zeroAt_iff]; omega
  have hindex : field w 0 5 = index := field_eq_iff.2 (by omega)
  simp only [decodeC1, hop, hzero, hindex, hlegal, if_true]

/-- MTX and MRX are read from their three words as `decodeC3` reads the number of the first (spec 30 R94). -/
theorem decode_transfer {dev : BitVec 7} {sr : Bool} {buf len : Word} {rest : List Word}
    (hop : opcode = 0x10 ∨ opcode = 0x11) :
    decode (commandWord opcode (bit sr * 2 ^ 7 + dev.toNat) :: buf :: len :: rest) =
      .instr (if opcode = 0x10 then .mtx dev sr buf len else .mrx dev sr buf len) rest := by
  have := bit_lt_two sr
  have hop' : opcode < 2 ^ 6 := by omega
  have hbody : bit sr * 2 ^ 7 + dev.toNat < 2 ^ 24 := by omega
  have h := commandWord_toNat hop' hbody
  obtain ⟨hclass, hcode⟩ := class_and_opcode_of_toNat h hop' hbody
  generalize commandWord opcode (bit sr * 2 ^ 7 + dev.toNat) = w at *
  have hzero : zeroAt w 8 16 = true := by rw [zeroAt_iff]; omega
  have hdev : field w 0 7 = dev := field_eq_iff.2 (by omega)
  have hsr : bitAt w 7 = sr := bitAt_eq_iff.2 (by omega)
  rw [decode_c3 (isC3_iff.2 ⟨hclass, hcode ▸ hop⟩), decodeC3, hzero, hdev, hsr, hcode]
  rcases hop with rfl | rfl <;> rfl

end Read

/-- Settles O1: an operand of several bits comes back from its field; the inputs whose operands are single bits are
decoded as they stand. -/
theorem decodeInvertsEncode : Obligations.DecodeInvertsEncode := by
  intro i rest hwf
  cases i with
  | init own speed duty ack => exact decode_encode_init own speed duty ack rest
  | irqpri line prio => exact decode_encode_irqpri line prio rest
  | mtx dev sr buf len => exact decode_transfer (.inl rfl)
  | mrx dev sr buf len => exact decode_transfer (.inr rfl)
  | stx value => exact decode_encode_stx value rest
  | flag index => exact decode_encode_flag index rest hwf
  | err flags =>
    exact (decode_error (portClass_errorWord flags)).trans (congrArg (ofPort · rest) (decodeError_errorWord flags))
  | deinit | closetx | closerx | srx => rfl
  | clk en | pe en | gc en | cben en => cases en <;> rfl
  | irqen line en => cases line <;> cases en <;> rfl
  | evSb msl tra | evAddr msl tra | evBtf msl tra | evStopf msl tra | evRxne msl tra | evTxe msl tra =>
    cases msl <;> cases tra <;> rfl

/-- Settles O2, word by word. -/
theorem specWordsDecode : Obligations.SpecWordsDecode := by
  unfold Obligations.SpecWordsDecode
  decide

end Sys2Proof
end

section
/-! SUPPORT. Which class-00 words are illegal (spec 30 R91): the decoder's checks of the reserved fields are the masks of
the reserved bits. -/

namespace Sys2Proof.Machine

variable {w buf len : Word}

theorem illegalCommandWord_of_reservedBits {m : Word} (hm : reservedBits (opcodeOf w) = some m)
    (hflag : opcodeOf w ≠ 0x20) : illegalCommandWord w = !(w &&& m == 0) := by
  simp [illegalCommandWord, hm, hflag, bne]

/-- MTX's and MRX's one check is the mask of their opcodes (spec 30 R91). -/
theorem decodeC3_error_iff (hop : opcodeOf w = 0x10 ∨ opcodeOf w = 0x11) :
    (∃ why, decodeC3 w buf len = .error why) ↔ illegalCommandWord w = true := by
  have hm : reservedBits (opcodeOf w) = some 0x00FFFF00 := by rcases hop with h | h <;> rw [h] <;> rfl
  have hz : zeroAt w 8 16 = (w &&& 0x00FFFF00 == 0) := zeroAt_eq_and_fieldMask (by decide)
  rw [illegalCommandWord_of_reservedBits hm (by omega), decodeC3, hz]
  cases w &&& 0x00FFFF00 == 0 with
  | false => simp
  | true => cases opcodeOf w == 0x10 <;> simp

/-- A command with one check is no command exactly where the check fails. -/
theorem checked_error_iff {c : Prop} [Decidable c] {i : Instr} {e : DecodeError} :
    (∃ why, (if c then Except.ok i else .error e) = .error why) ↔ ¬c := by
  by_cases hc : c <;> simp [hc]

/-- Two reserved fields are both 0 exactly where no 1 bit is under their masks together (spec 30 R91). -/
theorem and_or_beq_zero (w a b : Word) : (w &&& (a ||| b) == 0) = ((w &&& a == 0) && (w &&& b == 0)) := by
  rw [Bool.eq_iff_iff]
  simp [BitVec.and_or_distrib_left]

/-- The checks of each other opcode are its mask, and FLAG's index besides (spec 30 R91). -/
theorem decodeC1_error_iff (hop : ¬(opcodeOf w = 0x10 ∨ opcodeOf w = 0x11)) :
    (∃ why, decodeC1 w = .error why) ↔ illegalCommandWord w = true := by
  have hen : zeroAt w 1 23 = (w &&& 0x00FFFFFE == 0) := zeroAt_eq_and_fieldMask (by decide)
  have hplain : zeroAt w 0 24 = (w &&& 0x00FFFFFF == 0) := zeroAt_eq_and_fieldMask (by decide)
  have hirqen : zeroAt w 2 22 = (w &&& 0x00FFFFFC == 0) := zeroAt_eq_and_fieldMask (by decide)
  have hstx : zeroAt w 8 16 = (w &&& 0x00FFFF00 == 0) := zeroAt_eq_and_fieldMask (by decide)
  have hflag : zeroAt w 5 19 = (w &&& 0x00FFFFE0 == 0) := zeroAt_eq_and_fieldMask (by decide)
  have hinit : (zeroAt w 11 13 && zeroAt w 7 1) = (w &&& 0x00FFF880 == 0) := by
    rw [zeroAt_eq_and_fieldMask (by decide), zeroAt_eq_and_fieldMask (by decide), ← and_or_beq_zero]; rfl
  have hirqpri : (zeroAt w 16 8 && zeroAt w 2 6 && zeroAt w 0 1) = (w &&& 0x00FF00FD == 0) := by
    rw [zeroAt_eq_and_fieldMask (by decide), zeroAt_eq_and_fieldMask (by decide),
      zeroAt_eq_and_fieldMask (by decide), ← and_or_beq_zero, ← and_or_beq_zero]; rfl
  rw [decodeC1, hen, hplain, hirqen, hstx, hflag, hinit, hirqpri]
  unfold illegalCommandWord
  split
  case h_13 hop =>
    -- FLAG: the reserved bits, and then the index
    simp only [reservedBits, hop, bne]
    cases w &&& 0x00FFFFE0 == 0 <;> cases flagIndexLegal (field w 0 5) <;> simp
  case h_14 =>
    -- an opcode that is not assigned
    have hnone : reservedBits (opcodeOf w) = none := by
      unfold reservedBits
      split <;> simp_all
    simp [hnone]
  all_goals simp [reservedBits, checked_error_iff, *]

end Sys2Proof.Machine
end

section
/-! How many words an input takes, and what a word that spells nothing does (spec 30 R86, R91, R94, 60 R202). -/

namespace Sys2Proof.Machine

/-- Settles O3: a class-00 word is read with the two words after it exactly where it opens a C3 command, and every
reading takes the words it was given. -/
theorem firstWordGivesLength : Obligations.FirstWordGivesLength := by
  refine ⟨fun w buf len ws hclass hop => ?_, fun w ws h => ?_⟩
  · rw [decode_c3 (isC3_iff.2 ⟨hclass, hop⟩), decodeC3]
    split
    · split
      · exact .inl ⟨_, _, .inl rfl⟩
      · exact .inl ⟨_, _, .inr rfl⟩
    · exact .inr ⟨_, rfl⟩
  · cases hclass : portClass w with
    | command =>
      have hc3 : isC3 w = false := by rwa [← Bool.not_eq_true, isC3_iff]
      rw [decode_c1 hclass hc3]
      exact (ofCommand_cases _).imp_right .inr
    | event =>
      rw [decode_event hclass]
      exact (ofPort_cases _).imp_right .inl
    | error =>
      rw [decode_error hclass]
      exact (ofPort_cases _).imp_right .inl
    | reserved => exact .inr (.inr ⟨_, decode_reserved hclass⟩)

/-- A class-00 word spells nothing exactly where it is illegal (spec 30 R91). -/
theorem decode_illegal_iff {w : Word} (buf len : Word) (ws : List Word) (hclass : portClass w = .command) :
    (∃ why rest, decode (w :: buf :: len :: ws) = .illegal why rest) ↔ illegalCommandWord w = true := by
  cases hc3 : isC3 w with
  | true =>
    rw [decode_c3 hc3, ofCommand_illegal_iff]
    exact decodeC3_error_iff (isC3_iff.1 hc3).2
  | false =>
    have hop : ¬(opcodeOf w = 0x10 ∨ opcodeOf w = 0x11) := fun hop =>
      Bool.false_ne_true (hc3.symm.trans (isC3_iff.2 ⟨hclass, hop⟩))
    rw [decode_c1 hclass hc3, ofCommand_illegal_iff]
    exact decodeC1_error_iff hop

section Refused

variable {s : State} {w : Word} {ws rest : List Word} {why : DecodeError}

/-- Words that spell nothing are refused on the command port, MAIN's and APP's (spec 30 R91, 60 R221). -/
theorem fetchInput_refused {a : Agent} {put : List Word → State} (ha : a = .main ∨ a = .app)
    (hdec : decode (w :: ws) = .illegal why rest) :
    fetchInput a w ws put = .answer (.next (put rest).refuse.elapse) := by
  refine fetchInput_illegal ?_ hdec
  rcases ha with rfl | rfl <;> rcases portClass_of_illegal hdec with h | h <;> rw [h] <;> rfl

theorem step_main_refused (hf : s.fault = none) (hd : s.due = false) (hfr : s.frames = []) (htop : s.top = .main)
    (hin : s.mainIn = w :: ws) (hdec : decode (w :: ws) = .illegal why rest) :
    step s = .next { s.elapsed 1 with mainIn := rest, refused := some .illegalInput } := by
  rw [step, fetch_own hf hd, fetchOwn_main hfr htop hin, fetchInput_refused (.inl rfl) hdec]
  rfl

theorem step_app_refused {ev : AppEvent} {fs : List Frame} (hf : s.fault = none) (hd : s.due = false)
    (hfr : s.frames = .callback ev (w :: ws) :: fs) (hdec : decode (w :: ws) = .illegal why rest) :
    step s = .next { s.elapsed 1 with
      mid := s.mid.set (.callback ev rest :: fs) s.top, refused := some .illegalInput } := by
  rw [step, fetch_own hf hd, fetchOwn_callback hfr, fetchInput_refused (.inr rfl) hdec]
  rfl

end Refused

/-- Settles O4: the decoder's checks are the masks of the reserved bits, and the refusal sets its mark alone. -/
theorem illegalCommandsAreRefused : Obligations.IllegalCommandsAreRefused :=
  ⟨fun _ buf len ws hclass => decode_illegal_iff buf len ws hclass, fun _ _ _ _ _ hf hd hdec =>
    ⟨fun hfr htop hin => step_main_refused hf hd hfr htop hin hdec, fun _ _ hfr => step_app_refused hf hd hfr hdec⟩⟩

/-- Settles O5: a class-11 word spells nothing, and every port takes it to refuse it. -/
theorem classElevenSpellsNothing : Obligations.ClassElevenSpellsNothing := by
  intro s w ws hclass hf
  have hdec : ∀ ws, decode (w :: ws) = .illegal .reservedClass ws := fun _ => decode_reserved hclass
  refine ⟨hdec ws, fun hd hfr htop hin => step_main_refused hf hd hfr htop hin (hdec ws),
    fun ev fs hd hfr => step_app_refused hf hd hfr (hdec ws), fun ps hp => ?_⟩
  have hport : Agent.periph.issues (portClass w) = true := by rw [hclass]; rfl
  rw [step, fetch_due hf hp, fetchInput_illegal hport (hdec [])]
  rfl

end Sys2Proof.Machine
end

section
/-! A reserved event or error word, and the ignored bits of a word of PERIPH's (spec 30 R81, R92, 42 R149, 44 R175, 60
R207, R213 to R215). -/

namespace Sys2Proof.Machine

/-- An event word with a reserved code spells no event (spec 30 R92). -/
theorem decodeEvent_eq_none {w : Word} (h : ¬(opcodeOf w ∈ [0x00, 0x01, 0x02, 0x04, 0x06, 0x07])) :
    decodeEvent w = none := by
  unfold decodeEvent
  split <;> simp_all

/-- A reserved word of the event or the error line is ignored, and starts its line's handler (spec 30 R92). -/
theorem step_reserved {s : State} {w : Word} {ps : List Presented} {l : Line} (hf : s.fault = none)
    (hp : s.pres = ⟨0, w⟩ :: ps)
    (hw : (portClass w = .event ∧ ¬(opcodeOf w ∈ [0x00, 0x01, 0x02, 0x04, 0x06, 0x07]) ∧ l = .ev) ∨
      (portClass w = .error ∧ opcodeOf w ≠ 0 ∧ l = .er)) :
    step s = runReserved l { s with pres := ps } := by
  rw [step, fetch_due hf hp]
  obtain ⟨hclass, hcode, rfl⟩ | ⟨hclass, hcode, rfl⟩ := hw
  · have hdec : decode [w] = .ignored [] := by rw [decode_event hclass, decodeEvent_eq_none hcode]; rfl
    rw [fetchInput_ignored (by rw [hclass]; rfl) hdec, hclass]
    rfl
  · have hdec : decode [w] = .ignored [] := by rw [decode_error hclass, decodeError]; simp [hcode, ofPort]
    rw [fetchInput_ignored (by rw [hclass]; rfl) hdec, hclass]
    rfl

/-- A handler that enters and exits at once leaves the stack as it was (spec 60 R214, R215). -/
theorem State.enter_leave (s : State) (h : Context) : (s.enter h).leave = { s with mid := s.mid.set [] h } := by
  cases h <;> rfl

section Ignored

variable {v w : Word} {ws : List Word}

/-- The bits of an event word but its class, code, MSL and TRA are ignored (spec 30 R81). -/
theorem decode_event_congr (hclass : portClass v = .event) (h : v &&& 0xFF000300 = w &&& 0xFF000300) :
    decode (v :: ws) = decode (w :: ws) := by
  have hclass' : portClass w = .event :=
    (portClass_congr (bitAt_congr h (by decide) (by decide)) (bitAt_congr h (by decide) (by decide))).symm.trans hclass
  rw [decode_event hclass, decode_event hclass', decodeEvent, decodeEvent, opcodeOf_congr h (by decide),
    bitAt_congr (i := 8) h (by decide) (by decide), bitAt_congr (i := 9) h (by decide) (by decide)]

/-- The bits of an error word but its class, opcode and flags are ignored (spec 30 R81). -/
theorem decode_error_congr (hclass : portClass v = .error) (h : v &&& 0xFF00001F = w &&& 0xFF00001F) :
    decode (v :: ws) = decode (w :: ws) := by
  have hclass' : portClass w = .error :=
    (portClass_congr (bitAt_congr h (by decide) (by decide)) (bitAt_congr h (by decide) (by decide))).symm.trans hclass
  rw [decode_error hclass, decode_error hclass', decodeError, decodeError, opcodeOf_congr h (by decide),
    field_congr h (by decide) (by decide)]

end Ignored

/-- Settles O6: a reserved word runs `runReserved` on its line, by the gate and by whether another word is due; the
masks of the ignored bits leave out no bit the decoder reads. -/
theorem reservedHardwareWordsDoNothing : Obligations.ReservedHardwareWordsDoNothing := by
  refine ⟨?_, ?_, fun _ _ _ => decode_event_congr, fun _ _ _ => decode_error_congr⟩
  · intro s w ps l hf hp hw taken
    have hstep : step s = runReserved l taken := step_reserved hf hp hw
    refine ⟨fun hoff => hstep.trans (runReserved_off hoff), fun hgate hpre hdue => ?_, fun hgate hpre hdue => ?_⟩
    · rw [hstep, runReserved_alone (s := taken) hgate hpre hdue, State.enter_leave]
      rfl
    · rw [hstep, runReserved_due (s := taken) hgate hpre hdue]
      rfl
  · intro s
    exact ⟨Bool.and_true _, rfl⟩

end Sys2Proof.Machine
end

section
/-! The start of a transfer on the bus (spec 30 R87, 42 R141). -/

namespace Sys2Proof.Machine

/-- Settles O7: the address and the direction bit fit a byte. -/
theorem addressByteValue : Obligations.AddressByteValue := by
  refine ⟨fun dev read => ?_, by decide⟩
  have hfits : dev.toNat * 2 + bit read < 2 ^ 8 := by
    have := dev.isLt
    cases read <;> simp [bit] <;> omega
  exact BitVec.toNat_ofNat _ _ |>.trans (Nat.mod_eq_of_lt hfits)

section Sb

variable {s : State} {k : Nat}

theorem microSb_ready (h : s.ctx.state = .ready) : microSb k s = .done s := by
  simp only [microSb, h]

theorem microSb_busyTx (h : s.ctx.state = .busyTx) :
    microSb k s = .go 2 (s.record (.busDrw (addressByte s.ctx.dev false))) := by
  simp only [microSb, h]

theorem microSb_busyRx (h : s.ctx.state = .busyRx) :
    microSb k s = .go 2 (s.record (.busDrw (addressByte s.ctx.dev true))) := by
  simp only [microSb, h]

end Sb

/-- Settles O38: the handler enters, runs SB's one micro-step and exits. -/
theorem sbWritesTheAddressByte : Obligations.SbWritesTheAddressByte := by
  intro msl tra s hgate hq
  have hstarts : s.starts (.evSb msl tra) = true := Bool.and_eq_true_iff.2 hgate
  rw [exec_begins rfl hstarts (State.due_of_quiet hq)]
  cases hstate : s.ctx.state with
  | ready =>
    refine (runRule_done_exits (i := .evSb msl tra) rfl (microSb_ready (s := s.entered _) hstate) hq).trans ?_
    rw [tagged, List.map_nil, List.append_nil]
    rfl
  | busyTx =>
    exact runRule_last_exits (i := .evSb msl tra) rfl (microSb_busyTx (s := s.entered _) hstate) Nat.one_lt_two hq
  | busyRx =>
    exact runRule_last_exits (i := .evSb msl tra) rfl (microSb_busyRx (s := s.entered _) hstate) Nat.one_lt_two hq

end Sys2Proof.Machine
end

section
/-! SUPPORT. A command of one micro-step (spec 40): its guards, then what its micro-step answers; and the writes of INIT
and of CBEN taken together (40 R111, R118). -/

namespace Sys2Proof.Machine

/-- A word spells the input it encodes. -/
theorem spells_of_encode {w : Word} {i : Instr} (hwf : i.wf = true) (hw : encode i = [w]) : Spells w i := by
  intro rest
  have hdecode := decodeInvertsEncode i rest hwf
  rwa [hw] at hdecode

section Command

variable {i : Instr} {s t : State} {c : FaultCode} {j : Nat}

/-- A guard that raises comes before any effect (spec 40 R122, 60 R212). -/
theorem exec_command_guarded (hc : isCommand i = true) (hg : guardOf i s = some c) :
    exec i s = .next { s with fault := some c } := by
  rw [exec_command i s hc, hg]
  rfl

/-- A command past its guards runs its rule. -/
theorem exec_command_begins (hc : isCommand i = true) (hg : guardOf i s = none) :
    exec i s = runRule i (microOf i) maxMicro 1 s := by
  rw [exec_command i s hc, hg]
  rfl

/-- A command whose first micro-step is its last ends after it. -/
theorem exec_command_last (hc : isCommand i = true) (hg : guardOf i s = none) (hm : microOf i 1 s = .go j t)
    (hj : lastStep i < j) : exec i s = .next (t.elapsed 1) := by
  rw [exec_command_begins hc hg, maxMicro, runRule_succ, hm]
  exact (proceed_ended _ _ _ _ hj).trans (ruleEnded_command _ _ hc)

/-- A command whose first micro-step says `end` ends there. -/
theorem exec_command_done (hc : isCommand i = true) (hg : guardOf i s = none) (hm : microOf i 1 s = .done t) :
    exec i s = .next (t.elapsed 1) := by
  rw [exec_command_begins hc hg, maxMicro, runRule_succ, hm]
  exact ruleEnded_command _ _ hc

/-- A command that faults at its first micro-step stays there in `mid` (spec 60 R201; log 8). -/
theorem exec_command_raises (hc : isCommand i = true) (hg : guardOf i s = none) (hm : microOf i 1 s = .raise c) :
    exec i s = .next ((s.suspend i 1).raise c) := by
  rw [exec_command_begins hc hg, maxMicro, runRule_succ, hm]

end Command

/-- INIT's writes taken together (spec 40 R111). -/
theorem State.program_eq (s : State) (own : BitVec 7) (speed : Speed) (duty : Duty) (ack : Bool) :
    s.program own speed duty ack = { s with
      cfg := ⟨speed, duty, ack, own⟩
      ctl := { s.ctl with
        freq := Config.freqFn s.launch.pclkHz, ccr := Config.ccrFn s.launch.pclkHz speed duty, fs := speed,
        duty := duty, trise := Config.triseFn s.launch.pclkHz speed, oar := own, ack := ack }
      hist := s.hist ++ tagged s.top
        [.ctl .freq (Config.freqFn s.launch.pclkHz), .ctl .ccr (Config.ccrFn s.launch.pclkHz speed duty),
         .ctl .fs speed.value, .ctl .duty duty.value, .ctl .trise (Config.triseFn s.launch.pclkHz speed),
         .ctl .oar own.toNat, .ctl .ack (bit ack)] } := by
  ext1 <;> simp [State.program, tagged]

/-- The three source enables written together (spec 40 R118). -/
theorem State.enableSources_eq (s : State) (en : Bool) :
    s.enableSources en = { s with
      ctl := { s.ctl with itevten := en, itbufen := en, iterren := en }
      hist := s.hist ++ tagged s.top
        [.ctl .itevten (bit en), .ctl .itbufen (bit en), .ctl .iterren (bit en)] } := by
  ext1 <;> simp [State.enableSources, tagged]

section Init

variable {own : BitVec 7} {speed : Speed} {duty : Duty} {ack : Bool} {s : State} {k : Nat}

theorem microInit_busy (h : s.ctx.state ≠ .ready) : microInit own speed duty ack k s = .raise .initBusy :=
  if_pos h

theorem microInit_slow (h : s.ctx.state = .ready) (hslow : clockTooSlow s.launch.pclkHz speed = true) :
    microInit own speed duty ack k s = .done (s.record (.reply .init 1)) := by
  rw [microInit, if_neg (not_not_intro h), if_pos hslow]

theorem microInit_programs (h : s.ctx.state = .ready) (hfast : clockTooSlow s.launch.pclkHz speed = false) :
    microInit own speed duty ack k s = .go 2 ((s.program own speed duty ack).record (.reply .init 0)) := by
  rw [microInit, if_neg (not_not_intro h), if_neg (Bool.eq_false_iff.1 hfast)]

end Init

/-- The mask keeps the bits from `8 - PRIO_BITS` up (spec 40 R120). -/
theorem prioMask_getLsbD (bits : Nat) {j : Nat} (hj : j < 8) :
    (prioMask bits).getLsbD j = decide (8 - bits ≤ j) := by
  have hones : (0xFF : Nat).testBit (j - (8 - bits)) = true := by
    rw [show (0xFF : Nat) = 2 ^ 8 - 1 from rfl, Nat.testBit_two_pow_sub_one, decide_eq_true_eq]
    omega
  rw [prioMask, BitVec.getLsbD_ofNat, Nat.testBit_shiftLeft, hones, decide_eq_true hj, Bool.true_and, Bool.and_true]

end Sys2Proof.Machine
end

section
/-! Configuration, lifecycle and plumbing: what each command of one micro-step does (spec 40 R110 to R122). -/

namespace Sys2Proof.Machine

/-- With the clock off the guard of every gated command raises CLOCK_OFF (spec 40 R122). -/
theorem guardOf_clock_off {i : Instr} {s : State} (hi : clockGated i = true) (hoff : s.clken = false) :
    guardOf i s = some .clockOff := by
  have hclock : s.clockGuard = some .clockOff := by simp [State.clockGuard, hoff]
  have hcontext : s.contextGuard = some .clockOff := by simp [State.contextGuard, hoff]
  cases i with
  | init | deinit | mtx | mrx | closetx | closerx => exact hcontext
  | pe | gc | cben | stx | srx | flag => exact hclock
  | _ => cases hi

theorem isCommand_of_clockGated {i : Instr} (hi : clockGated i = true) : isCommand i = true := by
  cases i with
  | clk | irqen | irqpri => cases hi
  | _ => exact hi

/-- Settles O13: the clock guard comes before any effect, and CLK, IRQEN and IRQPRI have no guard. -/
theorem clockGateFaults : Obligations.ClockGateFaults := by
  refine ⟨fun i s hi hoff => exec_command_guarded (isCommand_of_clockGated hi) (guardOf_clock_off hi hoff), ?_⟩
  intro i s hc hungated
  cases i with
  | clk | irqen | irqpri => exact ⟨_, exec_command_last rfl rfl rfl Nat.one_lt_two, rfl⟩
  | _ => cases hc.symm.trans hungated

/-- Settles O15: CLK has no guard and one write. -/
theorem clkWritesTheGate : Obligations.ClkWritesTheGate :=
  ⟨spells_of_encode rfl rfl, spells_of_encode rfl rfl,
    fun _ _ => (exec_command_last rfl rfl rfl Nat.one_lt_two).trans rfl⟩

/-- Settles O16: INIT in READY with a clock fast enough programs, then replies. -/
theorem initProgramsThePeripheral : Obligations.InitProgramsThePeripheral := by
  intro own speed duty ack s hclk hrace hready hfast
  have hguard := (State.contextGuard_eq_none s).2 ⟨hclk, hrace⟩
  have hmicro := microInit_programs (own := own) (duty := duty) (ack := ack) (k := 1) hready
    ((clockTooSlow_false_iff _ _).2 hfast)
  rw [exec_command_last (i := .init own speed duty ack) rfl hguard hmicro Nat.one_lt_two, State.program_eq,
    State.record, List.append_assoc]
  rfl

/-- Settles O17: a slow clock is replied 1 and nothing else; any other clock is programmed, and none of the records of
that is this reply. -/
theorem initRejectsASlowClock : Obligations.InitRejectsASlowClock := by
  intro own speed duty ack s hclk hrace hready
  have hguard := (State.contextGuard_eq_none s).2 ⟨hclk, hrace⟩
  rw [← clockTooSlow_iff]
  refine ⟨fun hslow => ?_, fun t ht hreply => ?_⟩
  · have hmicro := microInit_slow (own := own) (duty := duty) (ack := ack) (k := 1) hready hslow
    exact (exec_command_done (i := .init own speed duty ack) rfl hguard hmicro).trans rfl
  · by_contra hfast
    have hprograms := initProgramsThePeripheral own speed duty ack s hclk hrace hready
      ((clockTooSlow_false_iff _ _).1 (Bool.eq_false_iff.2 hfast))
    cases ht.symm.trans hprograms
    simp [tagged] at hreply

/-- Settles O18: the rule faults at its micro-step 1, before any write. -/
theorem initWhileBusyFaults : Obligations.InitWhileBusyFaults := by
  intro own speed duty ack s hclk hrace hbusy
  have hguard := (State.contextGuard_eq_none s).2 ⟨hclk, hrace⟩
  exact exec_command_raises (i := .init own speed duty ack) rfl hguard (microInit_busy (k := 1) hbusy)

/-- Settles O19: DEINIT's one micro-step writes the reset values, in every Transfer State. -/
theorem deinitResetsThePeripheral : Obligations.DeinitResetsThePeripheral := by
  refine ⟨spells_of_encode rfl rfl, fun s hclk hrace => ?_⟩
  have hguard := (State.contextGuard_eq_none s).2 ⟨hclk, hrace⟩
  exact (exec_command_last (i := .deinit) rfl hguard rfl Nat.one_lt_two).trans rfl

/-- Settles O20: each of the three is one micro-step behind the clock guard. -/
theorem peGcAndCbenWriteTheirFields : Obligations.PeGcAndCbenWriteTheirFields := by
  refine ⟨spells_of_encode rfl rfl, spells_of_encode rfl rfl, spells_of_encode rfl rfl, spells_of_encode rfl rfl,
    spells_of_encode rfl rfl, spells_of_encode rfl rfl, fun en s hclk => ?_⟩
  have hguard := (State.clockGuard_eq_none s).2 hclk
  refine ⟨?_, ?_, ?_⟩
  · exact (exec_command_last (i := .pe en) rfl hguard rfl Nat.one_lt_two).trans rfl
  · exact (exec_command_last (i := .gc en) rfl hguard rfl Nat.one_lt_two).trans rfl
  · rw [exec_command_last (i := .cben en) rfl hguard rfl Nat.one_lt_two, State.enableSources_eq]
    rfl

/-- Settles O21: IRQEN has no guard and one write. -/
theorem irqenWritesTheLine : Obligations.IrqenWritesTheLine :=
  ⟨spells_of_encode rfl rfl, spells_of_encode rfl rfl, spells_of_encode rfl rfl, spells_of_encode rfl rfl,
    fun _ _ => ⟨(exec_command_last rfl rfl rfl Nat.one_lt_two).trans rfl,
      (exec_command_last rfl rfl rfl Nat.one_lt_two).trans rfl⟩⟩

/-- Settles O22: IRQPRI has no guard and one write, and the mask is read bit by bit. -/
theorem irqpriKeepsTheImplementedBits : Obligations.IrqpriKeepsTheImplementedBits := by
  refine ⟨spells_of_encode rfl rfl, rfl, fun bits prio j _ hj => ?_, fun prio s => ⟨?_, ?_⟩⟩
  · rw [keptPrio, BitVec.getLsbD_and, prioMask_getLsbD bits hj, Bool.and_comm]
  · exact (exec_command_last rfl rfl rfl Nat.one_lt_two).trans rfl
  · exact (exec_command_last rfl rfl rfl Nat.one_lt_two).trans rfl

/-- Settles O23: FLAG of a legal index takes a draw and replies it. -/
theorem flagRepliesADraw : Obligations.FlagRepliesADraw := by
  refine ⟨spells_of_encode rfl rfl, fun index s hlegal hclk => ?_⟩
  have hguard := (State.clockGuard_eq_none s).2 hclk
  exact (exec_command_last (i := .flag index) rfl hguard (if_pos hlegal) Nat.one_lt_two).trans rfl

end Sys2Proof.Machine
end

section
/-! Master initiation: an accepted MTX or MRX runs the five micro-steps of one shared initiation, and a rejected one
ends at its first (spec 41 R130 to R133). -/

namespace Sys2Proof.Machine

/-- With no word due before its last micro-step, a command that goes straight on makes all its writes in one step. -/
theorem exec_command_straight {i : Instr} {write : Nat → State → State} {s : State} {j : Nat}
    (hpres : ∀ k t, (write k t).pres = t.pres) (hc : isCommand i = true) (hg : guardOf i s = none)
    (hlast : lastStep i = j + 1) (hq : s.quiet j = true)
    (hgo : ∀ k, microOf i (k + 1) (s.after write k) = .go (k + 2) (write (k + 1) (s.after write k))) :
    exec i s = .next (s.after write (j + 1)) := by
  have hlt : lastStep i < maxMicro := (lastStep_bounds i).2
  have hfuel : maxMicro = maxMicro - (j + 1) + 1 + j := by omega
  have hended : lastStep i < j + 2 := hlast ▸ Nat.lt_succ_self _
  rw [exec_command_begins hc hg, hfuel, runRule_reaches hpres _ (hlast ▸ Nat.lt_succ_self j) hq fun k _ => hgo k,
    runRule_succ, hgo j]
  exact (proceed_ended _ _ _ _ hended).trans (ruleEnded_command _ _ hc)

/-- The initiation's writes taken together: the context, the three source enables, the START and the reply 0 (spec 41
R130, R131). -/
theorem State.after_initiate (s : State) (op : ReplyOp) (busy : TransferState) (dev : BitVec 7) (sr : Bool)
    (buf len : Word) :
    s.after (fun k t => t.initiate op busy dev sr buf len k) 5 = { s.elapsed 5 with
      ctx := ⟨busy, buf, len, dev, sr⟩
      ctl := { s.ctl with itevten := true, itbufen := true, iterren := true }
      hist := s.hist ++ tagged s.top
        [.ctl .itevten 1, .ctl .itbufen 1, .ctl .iterren 1, .busStart, .reply op 0] } := by
  ext1 <;> simp [State.after, State.initiate, State.enableSources, TransferState.code, tagged]

section Initiation

variable {dev : BitVec 7} {sr : Bool} {buf len : Word} {s : State}

theorem microMrx_accepts (hs : s.ctx.state = .ready) (hlen : len ≠ 0) : microMrx dev sr buf len 1 s = .go 2 s := by
  rw [microMrx, if_pos rfl, if_neg (not_not_intro hs), if_neg hlen]

/-- From READY, with a length that is not 0, the micro-steps of MRX are the initiation's, each going on to the next
(spec 41 R131). -/
theorem microMrx_initiates (hs : s.ctx.state = .ready) (hlen : len ≠ 0) (k : Nat) :
    let write := fun k t => State.initiate t .mrx .busyRx dev sr buf len k
    microMrx dev sr buf len (k + 1) (s.after write k) = .go (k + 2) (write (k + 1) (s.after write k)) := by
  cases k with
  | zero => exact microMrx_accepts hs hlen
  | succ k => simp [microMrx]

theorem microMrx_zero_length (hs : s.ctx.state = .ready) : microMrx dev sr buf 0 1 s = .raise .rxZeroLength := by
  rw [microMrx, if_pos rfl, if_neg (not_not_intro hs), if_pos rfl]

theorem microMtx_busy (hs : s.ctx.state ≠ .ready) :
    microMtx dev sr buf len 1 s = .done (s.record (.reply .mtx s.ctx.state.code)) := by
  rw [microMtx, if_pos rfl, if_pos hs]

/-- The busy check comes before the check of the length (spec 41 R131). -/
theorem microMrx_busy (hs : s.ctx.state ≠ .ready) :
    microMrx dev sr buf len 1 s = .done (s.record (.reply .mrx s.ctx.state.code)) := by
  rw [microMrx, if_pos rfl, if_pos hs]

end Initiation

theorem TransferState.code_of_busy {state : TransferState} (h : state ≠ .ready) :
    state.code = if state = .busyTx then 1 else 2 := by
  cases state with
  | ready => exact absurd rfl h
  | busyTx | busyRx => rfl

/-- Settles O24: from READY every micro-step of MTX is the initiation's, whatever the length. -/
theorem mtxStartsASend : Obligations.MtxStartsASend := by
  intro dev sr buf len s hclk hrace hready hquiet
  have hguard := (State.contextGuard_eq_none s).2 ⟨hclk, hrace⟩
  have hpres k t := State.initiate_pres t .mtx .busyTx dev sr buf len k
  rw [exec_command_straight (i := .mtx dev sr buf len) hpres rfl hguard rfl hquiet
    (microMtx_initiates dev sr buf len s hready), State.after_initiate]

/-- Settles O25: with bytes to receive MRX is the initiation too; with none it faults at micro-step 1, before any
write. -/
theorem mrxStartsAReceive : Obligations.MrxStartsAReceive := by
  intro dev sr buf len s hclk hrace hready
  have hguard := (State.contextGuard_eq_none s).2 ⟨hclk, hrace⟩
  refine ⟨fun hlen hquiet => ?_, fun hlen => ?_⟩
  · have hpres k t := State.initiate_pres t .mrx .busyRx dev sr buf len k
    rw [exec_command_straight (i := .mrx dev sr buf len) hpres rfl hguard rfl hquiet (microMrx_initiates hready hlen),
      State.after_initiate]
  · subst hlen
    exact exec_command_raises (i := .mrx dev sr buf 0) rfl hguard (microMrx_zero_length hready)

/-- Settles O26: both rules end at micro-step 1 with the reply of the state they read there. -/
theorem busyInitiationIsRejected : Obligations.BusyInitiationIsRejected := by
  intro dev sr buf len s hclk hrace hbusy
  have hguard := (State.contextGuard_eq_none s).2 ⟨hclk, hrace⟩
  rw [← TransferState.code_of_busy hbusy]
  exact ⟨exec_command_done (i := .mtx dev sr buf len) rfl hguard (microMtx_busy hbusy),
    exec_command_done (i := .mrx dev sr buf len) rfl hguard (microMrx_busy hbusy)⟩

end Sys2Proof.Machine
end

section
/-! SUPPORT. How far a presented word's rule comes in the one step that enters its handler (spec 60 R210, R214): where
it stands after some of its micro-steps, and how it ends from there, by an exit (60 R215) or in a callback (60 R216). -/

namespace Sys2Proof.Machine

@[simp] theorem afterSteps_zero (l : List Presented) : afterSteps 0 l = l := by cases l <;> rfl

@[simp] theorem State.elapsed_zero (s : State) : s.elapsed 0 = s := by ext1 <;> simp

/-- Records made one after another by the same context. -/
theorem append_tagged (hist : List Record) (c : Context) (first later : List Action) :
    hist ++ tagged c first ++ tagged c later = hist ++ tagged c (first ++ later) := by
  rw [List.append_assoc, tagged, tagged, ← List.map_append, tagged]

/-- Handler `h` has entered above `s` and `j` moments have passed: what a micro-step never writes is in `u` as the entry
left it (spec 60 R214). -/
structure InHandler (h : Context) (s : State) (j : Nat) (u : State) : Prop where
  stack : u.stack = h :: s.stack
  mid : u.mid = s.mid.set [] h
  pres : u.pres = afterSteps j s.pres
  app : u.app = s.app

section InHandler

variable {h : Context} {s t u : State} {j : Nat}

theorem InHandler.entry (h : Context) (s : State) : InHandler h s 0 (s.enter h) :=
  ⟨rfl, rfl, (afterSteps_zero _).symm, rfl⟩

theorem InHandler.congr (ht : InHandler h s j t) (hset : u.setting = t.setting) : InHandler h s j u := by
  obtain ⟨hstack, hmid, hpres, happ⟩ := State.setting_eq_iff.1 hset
  exact ⟨hstack.trans ht.stack, hmid.trans ht.mid, hpres.trans ht.pres, happ.trans ht.app⟩

theorem InHandler.elapse (hu : InHandler h s j u) : InHandler h s (j + 1) (u.elapsed 1) :=
  ⟨hu.stack, hu.mid, by rw [State.elapsed_pres, hu.pres, afterSteps_afterSteps], hu.app⟩

theorem InHandler.top (hu : InHandler h s j u) : u.top = h := by rw [State.top, hu.stack]; rfl

theorem InHandler.frames (hu : InHandler h s j u) : u.frames = [] := by
  rw [State.frames, hu.top, hu.mid, Mid.get_set_self]

theorem InHandler.appCommands (hu : InHandler h s j u) : u.appCommands = s.appCommands := by
  rw [State.appCommands, hu.app]; rfl

/-- What is quiet up to moment `j + 1` from the entry is quiet for one moment once `j` have passed. -/
theorem InHandler.quiet (hu : InHandler h s j u) (hq : s.quiet (j + 1) = true) : u.quiet 1 = true := by
  rw [State.quiet, hu.pres]
  exact (State.elapsed_quiet 1 (State.quiet_mono (Nat.le_succ j) hq)).trans hq

/-- The exit gives back the stack the handler entered above (spec 60 R215). -/
theorem InHandler.leave (hu : InHandler h s j u) (m : Nat) :
    u.leave.elapsed m = { u with stack := s.stack, mid := s.mid.set [] h, pres := afterSteps (j + m) s.pres } := by
  ext1 <;> simp [hu.stack, hu.mid, hu.pres, hu.top]

end InHandler

/-- The handler of word `i` starts in `s`, and its rule comes in one step past `j` micro-steps and stands at the next
one in state `t`. -/
structure Reaches (i : Instr) (s : State) (j : Nat) (t : State) : Prop where
  handler : isCommand i = false
  next_le_last : j + 1 ≤ lastStep i
  answer : exec i s = resume i (j + 1) t
  inHandler : InHandler (handlerOf (lineOfInput i)) s j t

/-- A rule that emits with nothing else begun, and finds commands of APP, opens their callback (spec 60 R216). -/
theorem resume_calls {i : Instr} {k k' : Nat} {s t : State} {ev : AppEvent} {w : Word} {ws : List Word}
    (hm : microOf i k s = .emit ev k' t) (hframes : t.frames = []) (happ : t.appCommands = w :: ws) :
    resume i k s = .next (callbackOpened t.top ev (w :: ws) i k' t) := by
  rw [resume, maxMicro, runRule_succ, hm]
  refine (emitted_open i _ k' t ev w ws happ).trans ?_
  rw [hframes]
  congr 1
  ext1 <;> simp [callbackOpened, tagged]

section Reaches

variable {i : Instr} {s t u : State} {j : Nat} {ev : AppEvent}

/-- A handler that starts with no other word due stands at its rule's first micro-step. -/
theorem Reaches.entry (hc : isCommand i = false) (hstarts : s.starts i = true) (hd : s.due = false) :
    Reaches i s 0 (s.entered i) :=
  ⟨hc, (lastStep_bounds i).1, exec_begins hc hstarts hd, .entry _ s⟩

/-- The next micro-step leaves the handler's setting alone. -/
theorem Reaches.leaves (h : Reaches i s j t) :
    (microOf i (j + 1) t).Leaves (InHandler (handlerOf (lineOfInput i)) s j) := by
  have hfollows := microOf_follows i (j + 1) t (Nat.le_add_left 1 j) h.next_le_last
  cases hm : microOf i (j + 1) t with
  | go | emit => rw [hm] at hfollows; exact h.inHandler.congr hfollows.2
  | done => rw [hm] at hfollows; exact h.inHandler.congr hfollows
  | raise | stuck => trivial

/-- With no word due the rule goes on to its next micro-step. -/
theorem Reaches.go (h : Reaches i s j t) (hm : microOf i (j + 1) t = .go (j + 2) u) (hlast : j + 2 ≤ lastStep i)
    (hq : s.quiet (j + 1) = true) : Reaches i s (j + 1) (u.elapsed 1) := by
  have hu : InHandler _ s j u := hm ▸ h.leaves
  have hfuel : lastStep i < j + 2 + 7 := Nat.lt_of_lt_of_le (lastStep_bounds i).2 (Nat.le_add_left 8 (j + 1))
  refine ⟨h.handler, hlast, h.answer.trans ?_, hu.elapse⟩
  rw [resume, maxMicro, runRule_go_quiet hm hlast (hu.quiet hq)]
  exact runRule_eq_resume (Nat.le_add_left 1 (j + 1)) hlast hfuel

/-- With no word due the rule goes on through micro-steps that each lead to the next one. -/
theorem Reaches.after {write : Nat → State → State} (h : Reaches i s j t) (m : Nat) (hlast : j + m + 1 ≤ lastStep i)
    (hq : s.quiet (j + m) = true)
    (hgo : ∀ k < m, microOf i (j + k + 1) (t.after write k) = .go (j + k + 2) (write (k + 1) (t.after write k))) :
    Reaches i s (j + m) (t.after write m) := by
  induction m with
  | zero => exact h
  | succ m ih =>
    have hbefore := ih (Nat.le_of_succ_le hlast) (State.quiet_mono (Nat.le_succ _) hq) fun k hk =>
      hgo k (Nat.lt_succ_of_lt hk)
    exact hbefore.go (hgo m (Nat.lt_succ_self m)) hlast hq

/-- A rule that says `end`: its handler exits (spec 60 R215). -/
theorem Reaches.ends (h : Reaches i s j t) (hm : microOf i (j + 1) t = .done u) (hq : s.quiet (j + 1) = true) :
    exec i s = .next { u with
      stack := s.stack, mid := s.mid.set [] (handlerOf (lineOfInput i)), pres := afterSteps (j + 2) s.pres } := by
  have hu : InHandler _ s j u := hm ▸ h.leaves
  rw [h.answer, ← hu.leave 2]
  exact runRule_done_exits h.handler hm (hu.quiet hq)

/-- A rule that goes on past its last micro-step: its handler exits (spec 60 R215). -/
theorem Reaches.exits (h : Reaches i s j t) (hm : microOf i (j + 1) t = .go (j + 2) u) (hlast : lastStep i = j + 1)
    (hq : s.quiet (j + 1) = true) :
    exec i s = .next { u with
      stack := s.stack, mid := s.mid.set [] (handlerOf (lineOfInput i)), pres := afterSteps (j + 2) s.pres } := by
  have hu : InHandler _ s j u := hm ▸ h.leaves
  rw [h.answer, ← hu.leave 2]
  exact runRule_last_exits h.handler hm (hlast ▸ Nat.lt_succ_self _) (hu.quiet hq)

/-- A rule that emits last, for an APP that issues nothing: its handler exits (spec 60 R215, R216). -/
theorem Reaches.emits {made : List Action} (h : Reaches i s j t) (hm : microOf i (j + 1) t = .emit ev (j + 2) u)
    (hlast : lastStep i = j + 1) (hq : s.quiet (j + 1) = true) (happ : s.appCommands = [])
    (hmade : u.hist = s.hist ++ tagged (handlerOf (lineOfInput i)) made) :
    exec i s = .next { u with
      stack := s.stack, mid := s.mid.set [] (handlerOf (lineOfInput i)), pres := afterSteps (j + 2) s.pres
      app := u.app.tail
      hist := s.hist ++ tagged (handlerOf (lineOfInput i)) (made ++ [.cb ev]) } := by
  have hu : InHandler _ s j u := hm ▸ h.leaves
  have hended : lastStep i < j + 2 := hlast ▸ Nat.lt_succ_self _
  have hexit : exec i s = .next ((u.record (.cb ev)).appTaken.leave.elapsed 2) := by
    rw [h.answer, resume, maxMicro, runRule_succ, hm]
    refine (emitted_silent _ _ _ _ _ (hu.appCommands.trans happ)).trans ?_
    rw [proceed_ended _ _ _ _ hended]
    exact ruleEnded_exits h.handler (hu.quiet hq)
  have hleave : (u.record (.cb ev)).appTaken.leave.elapsed 2 =
      { u.leave.elapsed 2 with app := u.app.tail, hist := u.hist ++ tagged u.top [.cb ev] } := rfl
  rw [hexit, hleave, hu.leave 2, hu.top, hmade, append_tagged]

/-- A rule that emits, where APP has commands: the callback opens and keeps the handler on the stack (spec 60 R216). -/
theorem Reaches.calls {w : Word} {ws : List Word} (h : Reaches i s j t)
    (hm : microOf i (j + 1) t = .emit ev (j + 2) u) (happ : s.appCommands = w :: ws) :
    exec i s = .next (callbackOpened (handlerOf (lineOfInput i)) ev (w :: ws) i (j + 2) { u with
      mid := s.mid, pres := afterSteps j s.pres }) := by
  have hu : InHandler _ s j u := hm ▸ h.leaves
  rw [h.answer, resume_calls hm hu.frames (hu.appCommands.trans happ), hu.top]
  congr 1
  ext1 <;> simp [callbackOpened, hu.mid, hu.pres]

end Reaches

end Sys2Proof.Machine
end

section
/-! SUPPORT. The micro-steps of the event rules and of ERR, case by case (spec 42 R142 to R148, 44 R175), and the
completion that BTF and RXNE share: a STOP unless a repeated start was asked for, and the Close steps (42 R147, 45
R185). -/

namespace Sys2Proof.Machine

/-- The handler of an SB, ADDR, BTF or STOPF word that can start starts (spec 42 R140). -/
theorem starts_of_eventStarts {s : State} (h : eventStarts s false) (msl tra : Bool) :
    s.starts (.evSb msl tra) = true ∧ s.starts (.evAddr msl tra) = true ∧
      s.starts (.evBtf msl tra) = true ∧ s.starts (.evStopf msl tra) = true :=
  have hstarts := Bool.and_eq_true_iff.2 h
  ⟨hstarts, hstarts, hstarts, hstarts⟩

section Completion

variable {i : Instr} {s t : State} {j : Nat}

/-- The four Close steps taken together (spec 45 R185). -/
theorem State.after_closeStep (s : State) :
    s.after (fun k t => t.closeStep k) 4 = { s.elapsed 4 with
      ctx := { s.ctx with rem := 0, state := .ready }
      ctl := { s.ctl with itevten := false, itbufen := false, ack := s.cfg.ack }
      hist := s.hist ++ tagged s.top [.ctl .itevten 0, .ctl .itbufen 0, .ctl .ack (bit s.cfg.ack)] } := by
  ext1 <;> simp [State.after, State.closeStep, tagged]

/-- The first micro-step of a completion: the STOP, unless a repeated start was asked for (spec 42 R147). -/
def State.stopUnlessSr (s : State) : State := if s.ctx.sr then s else s.record .busStop

theorem State.stopUnlessSr_eq (s : State) :
    s.stopUnlessSr = { s with hist := s.hist ++ tagged s.top (if s.ctx.sr then [] else [.busStop]) } := by
  cases hsr : s.ctx.sr <;> ext1 <;> simp [State.stopUnlessSr, hsr, tagged]

/-- A completion: its five micro-steps, each taking a moment (spec 42 R147). -/
def State.completed (s : State) : State := (s.stopUnlessSr.elapsed 1).after (fun k t => t.closeStep k) 4

theorem State.completed_eq (s : State) :
    s.completed = { s.elapsed 5 with
      ctx := { s.ctx with rem := 0, state := .ready }
      ctl := { s.ctl with itevten := false, itbufen := false, ack := s.cfg.ack }
      hist := s.hist ++ tagged s.top ((if s.ctx.sr then [] else [.busStop]) ++
        [.ctl .itevten 0, .ctl .itbufen 0, .ctl .ack (bit s.cfg.ack)]) } := by
  rw [State.completed, State.after_closeStep, State.stopUnlessSr_eq]
  ext1 <;> simp [tagged, State.top]

/-- The completion of a send, whose count is 0 already (spec 42 R143). -/
theorem State.completed_eq_of_none_left (hrem : s.ctx.rem = 0) :
    s.completed = { s.elapsed 5 with
      ctx := { s.ctx with state := .ready }
      ctl := { s.ctl with itevten := false, itbufen := false, ack := s.cfg.ack }
      hist := s.hist ++ tagged s.top ((if s.ctx.sr then [] else [.busStop]) ++
        [.ctl .itevten 0, .ctl .itbufen 0, .ctl .ack (bit s.cfg.ack)]) } := by
  have hctx : { s.ctx with rem := 0, state := .ready } = { s.ctx with state := .ready } := by rw [← hrem]
  rw [State.completed_eq, hctx]

/-- RXNE's data step on the last byte, and then the completion (spec 42 R145, R147). -/
theorem State.completed_receiveByte_eq (hrem : s.ctx.rem = 1) :
    (s.receiveByte.elapsed 1).completed = { s.elapsed 6 with
      ctx := { s.ctx with state := .ready, buf := s.ctx.buf + 1, rem := 0 }
      ctl := { s.ctl with itevten := false, itbufen := false, ack := s.cfg.ack }
      mem := Memory.write s.mem s.ctx.buf.toNat (Config.drawByte s.draws)
      draws := s.draws + 1
      hist := s.hist ++ tagged s.top
        ([.busDrr (Config.drawByte s.draws), .memW s.ctx.buf (Config.drawByte s.draws)] ++
          (if s.ctx.sr then [] else [.busStop]) ++
          [.ctl .itevten 0, .ctl .itbufen 0, .ctl .ack (bit s.cfg.ack)]) } := by
  rw [State.completed_eq, State.receiveByte_eq]
  ext1 <;> simp [hrem, tagged, State.top]

/-- With no word due a rule at its completion comes past it. -/
theorem Reaches.completes (h : Reaches i s j t) (hlast : j + 6 ≤ lastStep i) (hq : s.quiet (j + 5) = true)
    (hstop : microOf i (j + 1) t = .go (j + 2) t.stopUnlessSr)
    (hclose : ∀ k < 4, ∀ u, microOf i (j + 1 + k + 1) u = .go (j + 1 + k + 2) (u.closeStep (k + 1))) :
    Reaches i s (j + 5) t.completed :=
  (h.go hstop (by omega) (State.quiet_mono (by omega) hq)).after 4 hlast hq fun k hk => hclose k hk _

end Completion

section Micros

variable {s : State} {tra : Bool} {k : Nat}

/-- A master BTF with nothing left to send begins its completion (spec 42 R143). -/
theorem microBtf_stops (hstate : s.ctx.state = .busyTx) (hrem : s.ctx.rem = 0) :
    microBtf true 1 s = .go 2 s.stopUnlessSr := by
  simp only [microBtf, hstate, hrem, and_self, if_true, State.stopUnlessSr]

theorem microBtf_closes (hk : k < 4) : microBtf true (k + 2) s = .go (k + 3) (s.closeStep (k + 1)) := by
  have hlast : k + 2 ≠ 6 := by omega
  simp [microBtf, hlast]

/-- A master BTF that finds no send completed ends at once (spec 42 R148). -/
theorem microBtf_unexpected (h : ¬(s.ctx.state = .busyTx ∧ s.ctx.rem = 0)) : microBtf true 1 s = .done s := by
  simp only [microBtf, if_true, if_neg h]

/-- A master RXNE with no byte left begins its completion (spec 42 R145). -/
theorem microRxne_stops (hrem : s.ctx.rem = 0) : microRxne true tra 2 s = .go 3 s.stopUnlessSr := by
  simp [microRxne, hrem, State.stopUnlessSr]

theorem microRxne_closes (hk : k < 4) : microRxne true tra (k + 3) s = .go (k + 4) (s.closeStep (k + 1)) := by
  have hlast : k + 3 ≠ 7 := by omega
  simp [microRxne, hlast]

/-- A master RXNE that finds no receive ends at once (spec 42 R148). -/
theorem microRxne_unexpected (h : s.ctx.state ≠ .busyRx) : microRxne true tra 1 s = .done s := by
  simp only [microRxne, if_true, if_pos h]

/-- A master RXNE with no byte left to receive faults (spec 42 R145). -/
theorem microRxne_underflows (hstate : s.ctx.state = .busyRx) (hrem : s.ctx.rem = 0) :
    microRxne true tra 1 s = .raise .rxUnderflow := by
  simp [microRxne, hstate, hrem]

/-- A master TXE that finds no byte to send ends at once (spec 42 R146, R148). -/
theorem microTxe_unexpected (h : ¬(s.ctx.state = .busyTx ∧ s.ctx.rem ≠ 0)) : microTxe true tra 1 s = .done s := by
  simp only [microTxe, if_true, if_neg h]

/-- ADDR disables ACK in a receive of one byte (spec 42 R142). -/
theorem microAddr_disables_ack (h : s.ctx.state = .busyRx ∧ s.ctx.rem = 1) :
    microAddr true 1 s = .go 2 (s.ctlWrite { s.ctl with ack := false } .ack 0) := by
  simp only [microAddr, if_true, if_pos h]

/-- ADDR leaves ACK in every other transfer (spec 42 R142). -/
theorem microAddr_keeps_ack (h : ¬(s.ctx.state = .busyRx ∧ s.ctx.rem = 1)) : microAddr true 1 s = .go 2 s := by
  simp only [microAddr, if_true, if_neg h]

variable {flags : BitVec 5} {n : Nat} {flag : StatusFlag} {ev : AppEvent}

/-- ERR reports a flag that is set (spec 44 R175). -/
theorem microErr_reports (hev : errorOfBit n = some (flag, ev)) (hset : flags.getLsbD n = true) :
    microErr flags (n + 1) s = .emit ev (n + 2) (s.record (.busClr flag)) := by
  simp [microErr, hev, hset]

/-- ERR passes over a flag that is not set (spec 44 R175). -/
theorem microErr_passes (hn : n < 5) (hclear : flags.getLsbD n = false) :
    microErr flags (n + 1) s = .go (n + 2) s := by
  obtain ⟨p, hp⟩ : ∃ p, errorOfBit n = some p := by interval_cases n <;> exact ⟨_, rfl⟩
  simp only [microErr, Nat.add_sub_cancel, hp, hclear]
  rfl

theorem lt_five_of_errorOfBit (hev : errorOfBit n = some (flag, ev)) : n < 5 :=
  match n, hev with
  | 0, _ | 1, _ | 2, _ | 3, _ | 4, _ => by decide

end Micros

/-- Micro-steps that write nothing take their moments. -/
theorem State.after_unwritten (s : State) (m : Nat) : s.after (fun _ t => t) m = s.elapsed m := by
  induction m with
  | zero => exact s.elapsed_zero.symm
  | succ m ih => rw [State.after, ih, State.elapsed_elapsed]

end Sys2Proof.Machine
end

section
/-! Event and error words: those discarded, those that come to nothing, and those that only clear their flag (spec 42
R140, R142, R144, R148, 44 R175). -/

namespace Sys2Proof.Machine

variable {i : Instr} {s : State}

/-- A word whose gate is false, or whose handler may not start, is discarded (spec 60 R208, R210). -/
theorem exec_ungated (hc : isCommand i = false) (h : gateOf i s = false ∨ s.mayPreempt (lineOfInput i) = false) :
    exec i s = .next s := by
  refine exec_discarded hc ?_
  rw [State.starts, Bool.and_eq_false_iff]
  exact h

/-- Settles O35: the gates are the fields' conjunctions, and TXE's and RXNE's asks for ITBUFEN besides. -/
theorem ungatedWordsAreDiscarded : Obligations.UngatedWordsAreDiscarded := by
  intro s
  have hplain : s.eventGate false = (s.clken && s.nvic.enEv && s.ctl.itevten) := Bool.and_true _
  refine ⟨fun msl tra h => ?_, fun msl tra h => ⟨exec_ungated rfl h, exec_ungated rfl h⟩,
    fun flags h => exec_ungated rfl h⟩
  rw [← hplain] at h
  exact ⟨exec_ungated rfl h, exec_ungated rfl h, exec_ungated rfl h, exec_ungated rfl h⟩

/-- A word whose rule ends at its first micro-step with nothing written comes to nothing: its handler enters and exits
(spec 42 R148). -/
theorem exec_ignored (hc : isCommand i = false) (hstarts : s.starts i = true) (hq : s.quiet 1 = true)
    (hm : microOf i 1 (s.entered i) = .done (s.entered i)) :
    exec i s = .next { s.elapsed 2 with mid := s.mid.set [] (handlerOf (lineOfInput i)) } :=
  ((Reaches.entry hc hstarts (State.due_of_quiet hq)).ends hm hq).trans rfl

/-- Settles O48: each of these rules finds no transition at its first micro-step. -/
theorem unexpectedEventsDoNothing : Obligations.UnexpectedEventsDoNothing := by
  intro tra s hq ignored
  refine ⟨fun hgate => ?_, fun hgate => ?_⟩
  · obtain ⟨hsb, -, hbtf, -⟩ := starts_of_eventStarts hgate true tra
    obtain ⟨hsb', -, hbtf', -⟩ := starts_of_eventStarts hgate false tra
    exact ⟨fun h => exec_ignored rfl hbtf hq (microBtf_unexpected h), exec_ignored rfl hbtf' hq rfl,
      fun hready => ⟨exec_ignored rfl hsb hq (microSb_ready (k := 1) hready),
        exec_ignored rfl hsb' hq (microSb_ready (k := 1) hready)⟩⟩
  · have hstarts (msl tra) := starts_of_eventStarts_buffered hgate msl tra
    exact ⟨fun h => exec_ignored rfl (hstarts true tra).2 hq (microRxne_unexpected h),
      exec_ignored rfl (hstarts false true).2 hq rfl,
      fun h => exec_ignored rfl (hstarts true tra).1 hq (microTxe_unexpected h),
      exec_ignored rfl (hstarts false false).1 hq rfl⟩

/-- Settles O39: two micro-steps, ACK's in a receive of one byte and then the flag's. -/
theorem addrDisablesAckBeforeTheClear : Obligations.AddrDisablesAckBeforeTheClear := by
  intro tra s hgate hq
  obtain ⟨-, hstarts, -⟩ := starts_of_eventStarts hgate true tra
  have hentry := Reaches.entry (i := .evAddr true tra) rfl hstarts (State.due_of_quiet hq)
  have hq1 : s.quiet 1 = true := State.quiet_mono one_le_two hq
  refine ⟨fun hone => ?_, fun hmore => ?_⟩
  · have hcleared := (hentry.go (microAddr_disables_ack hone) le_rfl hq1).exits rfl rfl hq
    rw [hcleared, State.record, State.elapsed_hist, State.ctlWrite_hist, List.append_assoc]
    rfl
  · exact (hentry.go (microAddr_keeps_ack hmore) le_rfl hq1).exits rfl rfl hq

/-- A word that clears a flag at its first micro-step stands at its second. -/
theorem reaches_clear {flag : StatusFlag} (hc : isCommand i = false) (hstarts : s.starts i = true)
    (hq : s.quiet 1 = true) (hm : microOf i 1 (s.entered i) = .go 2 ((s.entered i).record (.busClr flag)))
    (hlast : 2 ≤ lastStep i) : Reaches i s 1 (((s.entered i).record (.busClr flag)).elapsed 1) :=
  (Reaches.entry hc hstarts (State.due_of_quiet hq)).go hm hlast hq

/-- A word that clears a flag and then emits, for an APP that issues nothing (spec 42 R142, R144). -/
theorem exec_clears_and_emits {flag : StatusFlag} {ev : AppEvent} (hc : isCommand i = false)
    (hstarts : s.starts i = true) (hq : s.quiet 2 = true) (happ : s.appCommands = []) (hlast : lastStep i = 2)
    (hclear : microOf i 1 (s.entered i) = .go 2 ((s.entered i).record (.busClr flag)))
    (hemit : ∀ t, microOf i 2 t = .emit ev 3 t) :
    exec i s = .next { s.elapsed 3 with
      mid := s.mid.set [] (handlerOf (lineOfInput i)), app := s.app.tail
      hist := s.hist ++ tagged (handlerOf (lineOfInput i)) [.busClr flag, .cb ev] } := by
  have hcleared := reaches_clear hc hstarts (State.quiet_mono one_le_two hq) hclear hlast.ge
  exact (hcleared.emits (made := [.busClr flag]) (hemit _) hlast hq happ rfl).trans rfl

/-- Settles O40: the flag is cleared at micro-step 1, and slave role emits at micro-step 2. -/
theorem addrAndStopfClearTheirFlag : Obligations.AddrAndStopfClearTheirFlag := by
  intro tra s hgate hq
  obtain ⟨-, haddr, -, hstopf⟩ := starts_of_eventStarts hgate false tra
  obtain ⟨-, -, -, hmaster⟩ := starts_of_eventStarts hgate true tra
  refine ⟨fun happ => ⟨?_, ?_⟩, ?_⟩
  · exact exec_clears_and_emits (i := .evAddr false tra) rfl haddr hq happ rfl rfl fun _ => rfl
  · exact exec_clears_and_emits (i := .evStopf false tra) rfl hstopf hq happ rfl rfl fun _ => rfl
  · have hq1 : s.quiet 1 = true := State.quiet_mono one_le_two hq
    exact (reaches_clear (i := .evStopf true tra) rfl hmaster hq1 rfl le_rfl).exits rfl rfl hq

/-- Settles O46: each of the two rules has one micro-step, which emits. -/
theorem slaveDataEventsReachApp : Obligations.SlaveDataEventsReachApp := by
  intro s hgate hq happ
  obtain ⟨htxe, -⟩ := starts_of_eventStarts_buffered hgate false true
  obtain ⟨-, hrxne⟩ := starts_of_eventStarts_buffered hgate false false
  have hdue := State.due_of_quiet hq
  have hmade : s.hist = s.hist ++ tagged .evh [] := (List.append_nil _).symm
  exact ⟨((Reaches.entry (i := .evTxe false true) rfl htxe hdue).emits rfl rfl hq happ hmade).trans rfl,
    ((Reaches.entry (i := .evRxne false false) rfl hrxne hdue).emits rfl rfl hq happ hmade).trans rfl⟩

/-- Settles O44: the handler enters and its rule faults at micro-step 1, before any write. -/
theorem rxneUnderflowFaults : Obligations.RxneUnderflowFaults := by
  intro tra s hgate hd hstate hrem
  obtain ⟨-, hstarts⟩ := starts_of_eventStarts_buffered hgate true tra
  have hraises := microRxne_underflows (s := s.entered (.evRxne true tra)) (tra := tra) hstate hrem
  rw [exec_begins rfl hstarts hd, maxMicro, runRule_succ, microOf, hraises]
  rfl

end Sys2Proof.Machine
end

section
/-! The completion of a transfer by BTF and RXNE, for an APP that issues nothing (spec 42 R143, R145, R147). -/

namespace Sys2Proof.Machine

variable {tra : Bool} {s : State}

/-- BTF of a finished send stands at its emitting micro-step, the completion done (spec 42 R143, R147). -/
theorem reaches_btf_emit (hgate : eventStarts s false) (hq : s.quiet 5 = true) (hstate : s.ctx.state = .busyTx)
    (hrem : s.ctx.rem = 0) : Reaches (.evBtf true tra) s 5 (s.enter .evh).completed := by
  obtain ⟨-, -, hstarts, -⟩ := starts_of_eventStarts hgate true tra
  have hentry := Reaches.entry (i := .evBtf true tra) rfl hstarts (State.due_of_quiet hq)
  refine hentry.completes le_rfl hq (microBtf_stops hstate hrem) fun k hk u => ?_
  rw [Nat.zero_add, Nat.add_comm 1 k]
  exact microBtf_closes hk

/-- RXNE of the last byte stands at its emitting micro-step, the byte stored and the completion done (spec 42 R145,
R147). -/
theorem reaches_rxne_emit (hgate : eventStarts s true) (hq : s.quiet 6 = true) (hstate : s.ctx.state = .busyRx)
    (hrem : s.ctx.rem = 1) (hadmit : s.admits s.ctx.buf = true) :
    Reaches (.evRxne true tra) s 6 ((s.enter .evh).receiveByte.elapsed 1).completed := by
  obtain ⟨-, hstarts⟩ := starts_of_eventStarts_buffered hgate true tra
  have hentry := Reaches.entry (i := .evRxne true tra) rfl hstarts (State.due_of_quiet hq)
  have hsome : s.ctx.rem ≠ 0 := by rw [hrem]; decide
  have hnone : ((s.enter .evh).receiveByte.elapsed 1).ctx.rem = 0 := by
    simp [State.receiveByte_eq, hrem]
  have hstored := hentry.go (microRxne_receives hstate hsome hadmit) (Nat.le_add_left 2 5)
    (State.quiet_mono (Nat.le_add_left 1 5) hq)
  refine hstored.completes le_rfl hq (microRxne_stops hnone) fun k hk u => ?_
  rw [Nat.zero_add, Nat.add_comm (1 + 1) k]
  exact microRxne_closes hk

/-- Settles O41: the completion, then the emitting micro-step. -/
theorem btfCompletesASend : Obligations.BtfCompletesASend := by
  intro tra s hgate hq happ hstate hrem
  have hreaches := reaches_btf_emit (tra := tra) hgate (State.quiet_mono (Nat.le_succ 5) hq) hstate hrem
  rw [State.completed_eq_of_none_left (s := s.enter .evh) hrem] at hreaches
  refine (hreaches.emits rfl rfl hq happ rfl).trans ?_
  rw [List.append_assoc]
  rfl

/-- Settles O43: the byte stored, the completion, then the emitting micro-step. -/
theorem rxneCompletesAReceive : Obligations.RxneCompletesAReceive := by
  intro tra s hgate hq happ hstate hrem hadmit
  have hreaches := reaches_rxne_emit (tra := tra) hgate (State.quiet_mono (Nat.le_succ 6) hq) hstate hrem hadmit
  rw [State.completed_receiveByte_eq (s := s.enter .evh) hrem] at hreaches
  refine (hreaches.emits rfl rfl hq happ rfl).trans ?_
  rw [List.append_assoc _ _ [Action.cb .rxCmplt]]
  rfl

end Sys2Proof.Machine
end

section
/-! The callbacks of the emitting rules, where APP has commands (spec 60 R216), and the fault RX_UNDERFLOW reached from
reset (42 R145). -/

namespace Sys2Proof.Machine

variable {s : State} {flags : BitVec 5} {n : Nat}

/-- ERR passes over the flags that are not set, each taking a moment (spec 44 R175). -/
theorem reaches_err (hgate : errorStarts s) (hn : n < 5) (hq : s.quiet n = true)
    (hclear : ∀ m < n, flags.getLsbD m = false) : Reaches (.err flags) s n ((s.enter .erh).elapsed n) := by
  have hstarts : s.starts (.err flags) = true := Bool.and_eq_true_iff.2 hgate
  have hentry := Reaches.entry (i := .err flags) rfl hstarts (State.due_of_quiet hq)
  have hlast : 0 + n + 1 ≤ 5 := by omega
  have hreaches := hentry.after (write := fun _ t => t) n hlast (by rwa [Nat.zero_add]) fun m hm => by
    rw [Nat.zero_add]
    exact microErr_passes (by omega) (hclear m hm)
  rwa [State.after_unwritten, Nat.zero_add] at hreaches

/-- With its callback open a handler is not mid-rule: the emitting micro-step was its rule's last, or its rule is ERR,
which is not ctx-sensitive (spec 60 R212). -/
theorem callbackOpened_not_midRule {h : Context} {ev : AppEvent} {cmds : List Word} {i : Instr} {k : Nat} (t : State)
    (hi : lastStep i < k ∨ ∃ f, i = .err f) : (callbackOpened h ev cmds i k t).midRule h = false := by
  have hframes : (callbackOpened h ev cmds i k t).mid.get h = [.callback ev cmds, .rule i k] := Mid.get_set_self _ _ _
  have hrule : (Frame.rule i k).midRule = false := by
    obtain hlast | ⟨f, rfl⟩ := hi
    · simp [Frame.midRule, hlast]
    · rfl
  simp only [State.midRule, hframes, List.any_cons, List.any_nil, hrule]
  rfl

/-- Settles O47: each rule stands at its emitting micro-step after the moments given, and the callback opens there. -/
theorem callbackOpensForCommands : Obligations.CallbackOpensForCommands := by
  intro s w ws tra happ entered
  refine ⟨?slaveData, ?slaveClear, ?btf, ?rxne, ?err, fun _ _ _ _ t hi => callbackOpened_not_midRule t hi⟩
  case slaveData =>
    intro hgate hd
    obtain ⟨htxe, -⟩ := starts_of_eventStarts_buffered hgate false true
    obtain ⟨-, hrxne⟩ := starts_of_eventStarts_buffered hgate false false
    refine ⟨?_, ?_⟩
    · rw [(Reaches.entry (i := .evTxe false true) rfl htxe hd).calls rfl happ, afterSteps_zero]
      rfl
    · rw [(Reaches.entry (i := .evRxne false false) rfl hrxne hd).calls rfl happ, afterSteps_zero]
      rfl
  case slaveClear =>
    intro hgate hq
    obtain ⟨-, haddr, -, hstopf⟩ := starts_of_eventStarts hgate false tra
    exact ⟨((reaches_clear (i := .evAddr false tra) rfl haddr hq rfl le_rfl).calls rfl happ).trans rfl,
      ((reaches_clear (i := .evStopf false tra) rfl hstopf hq rfl le_rfl).calls rfl happ).trans rfl⟩
  case btf =>
    intro hgate hq hstate hrem
    have hcalls := (reaches_btf_emit (tra := tra) hgate hq hstate hrem).calls rfl happ
    rw [hcalls, State.completed_eq_of_none_left (s := s.enter .evh) hrem]
    rfl
  case rxne =>
    intro hgate hq hstate hrem hadmit
    have hcalls := (reaches_rxne_emit (tra := tra) hgate hq hstate hrem hadmit).calls rfl happ
    rw [hcalls, State.completed_receiveByte_eq (s := s.enter .evh) hrem]
    rfl
  case err =>
    intro flags n flag ev hev hset
    refine ⟨fun hgate hq hclear => ?_, fun htop hframes => ?_⟩
    · have hreaches := reaches_err hgate (lt_five_of_errorOfBit hev) hq hclear
      exact (hreaches.calls (microErr_reports hev hset) happ).trans rfl
    · have hcalls := resume_calls (i := .err flags) (microErr_reports (s := s) hev hset) hframes happ
      rw [hcalls, State.record_top, htop, State.record, htop]
      rfl

/-- Refutes O60: CLOSERX, cut after its micro-step 2, has set the count to 0 and not yet the state to READY; the ERR
that cuts it lets APP issue CBEN, which opens the event gate again, and an RXNE follows ERR's exit. -/
theorem not_rxUnderflowIsUnreachable : ¬ Obligations.RxUnderflowIsUnreachable := by
  intro h
  -- CLK, IRQEN of both lines, MRX of one byte, CLOSERX
  have hrun := h [0x01000001, 0x07000001, 0x07000003, 0x11000050, 0x20000100, 0x00000001, 0x13000000]
    -- ERR with BERR, 10 moments on; RXNE in master role, 7 moments after it
    [⟨10, 0x80000001⟩, ⟨7, 0x46000100⟩]
    -- CBEN in the callback of BERR
    [[0x06000001]] 9 _ rfl
  exact hrun rfl

end Sys2Proof.Machine
end

section
/-! The slave byte exchange (spec 43): STX and SRX, and what the slave's rules leave unchanged. -/

namespace Sys2Proof.Machine

/-- Settles O33: STX is one record behind the clock guard. -/
theorem stxWritesTheDataRegister : Obligations.StxWritesTheDataRegister := by
  refine ⟨spells_of_encode rfl rfl, fun value s hclk => ?_⟩
  have hguard := (State.clockGuard_eq_none s).2 hclk
  exact (exec_command_last (i := .stx value) rfl hguard rfl Nat.one_lt_two).trans rfl

/-- Settles O34: SRX takes a draw and records the read, then the reply. -/
theorem srxRepliesADraw : Obligations.SrxRepliesADraw := by
  refine ⟨spells_of_encode rfl rfl, fun s hclk => ?_⟩
  have hguard := (State.clockGuard_eq_none s).2 hclk
  rw [exec_command_last (i := .srx) rfl hguard rfl Nat.one_lt_two, State.record, State.busDrr, State.record,
    List.append_assoc]
  rfl

/-- The rules of the slave engine: the event rules in slave role, and STX and SRX (spec 43 R172). -/
inductive SlaveEngine : Instr → Prop
  | addr (tra) : SlaveEngine (.evAddr false tra)
  | txe (tra) : SlaveEngine (.evTxe false tra)
  | rxne (tra) : SlaveEngine (.evRxne false tra)
  | stopf (tra) : SlaveEngine (.evStopf false tra)
  | sb (tra) : SlaveEngine (.evSb false tra)
  | btf (tra) : SlaveEngine (.evBtf false tra)
  | stx (v) : SlaveEngine (.stx v)
  | srx : SlaveEngine .srx

section SlaveEngine

variable {P : State → Prop} {i : Instr} {s t : State}

/-- A micro-step of the slave engine makes records and takes draws, and writes nothing else. -/
theorem SlaveEngine.microOf_keeps (hi : SlaveEngine i) (hrecord : ∀ s a, P s → P (s.record a))
    (hdrawn : ∀ s, P s → P s.drawn) (k : Nat) (s : State) (hs : P s) : (microOf i k s).Leaves P := by
  cases hi with
  | addr tra =>
    simp only [microOf, microAddr, Bool.false_eq_true, if_false]
    split_ifs
    · exact hrecord s _ hs
    · exact hs
  | txe tra | rxne tra => cases tra <;> exact hs
  | stopf tra =>
    simp only [microOf, microStopf, Bool.false_eq_true, if_false]
    split_ifs
    · exact hrecord s _ hs
    · exact hs
  | sb tra =>
    simp only [microOf, microSb]
    split
    · exact hrecord s _ hs
    · exact hrecord s _ hs
    · exact hs
  | btf tra => exact hs
  | stx v => exact hrecord s _ hs
  | srx => exact hrecord _ _ (hrecord _ _ (hdrawn s hs))

/-- What the micro-steps of a rule and the bookkeeping keep, a run of the rule keeps. -/
theorem Runs.keeps_of_microOf (hrun : Runs i s t) (hP : Kept P) (hmicro : ∀ k s, P s → (microOf i k s).Leaves P)
    (hs : P s) : P t := by
  obtain h | ⟨k, h⟩ | ⟨k, h⟩ := hrun
  · exact exec_keeps hP hmicro hs h
  · exact resume_keeps hP hmicro hs h
  · exact callbackReturn_keeps hP hmicro hs h

/-- `t` has the Transfer Context, the configuration, the control fields and the memory of `s`. -/
def SameTransfer (s t : State) : Prop := t.ctx = s.ctx ∧ t.cfg = s.cfg ∧ t.ctl = s.ctl ∧ t.mem = s.mem

theorem kept_sameTransfer (s : State) : Kept (SameTransfer s) :=
  ⟨fun _ _ => id, fun _ _ => id, fun _ _ => id, fun _ _ => id, fun _ _ => id, fun _ => id⟩

end SlaveEngine

/-- Settles O50: neither a record, nor a draw, nor the bookkeeping writes any of the four. -/
theorem slaveEngineHasNoState : Obligations.SlaveEngineHasNoState := by
  intro i s t hi hrun
  have hslave : SlaveEngine i := by
    obtain ⟨tra, v, rfl | rfl | rfl | rfl | rfl | rfl | rfl | rfl⟩ := hi <;> constructor
  have hmicro := hslave.microOf_keeps (P := SameTransfer s) (fun _ _ => id) (fun _ => id)
  exact hrun.keeps_of_microOf (kept_sameTransfer s) hmicro ⟨rfl, rfl, rfl, rfl⟩

end Sys2Proof.Machine
end

section
/-! The error classifier (spec 44): ERR reports each set flag once, in flag-bit order, and writes no field. -/

namespace Sys2Proof.Machine

variable {flags : BitVec 5} {k n m : Nat} {s t : State}

/-- ERR has passed bit `k` for an APP that issues nothing: the records are made where the flag is set, and the callback
has taken its empty list of commands. -/
def State.reported (s : State) (flags : BitVec 5) (k : Nat) : State :=
  { s with
    app := s.app.drop (flags.getLsbD k).toNat
    hist := s.hist ++ tagged s.top (errorReport flags k) }

/-- ERR has passed every bit from `k` up for an APP that issues nothing. -/
def State.reportedFrom (s : State) (flags : BitVec 5) (k : Nat) : State :=
  { s with
    app := s.app.drop (errorCallbacksFrom flags k)
    hist := s.hist ++ tagged s.top (errorReportsFrom flags k) }

/-- APP issues nothing in the callbacks of the flags from bit `k` up. -/
def Silent (flags : BitVec 5) (k : Nat) (app : List (List Word)) : Prop :=
  ∀ cs ∈ app.take (errorCallbacksFrom flags k), cs = []

theorem drop_range_five (hk : k < 5) : (List.range 5).drop k = k :: (List.range 5).drop (k + 1) := by
  rw [List.drop_eq_getElem_cons (by simpa using hk), List.getElem_range]

theorem errorReportsFrom_of_lt (hk : k < 5) :
    errorReportsFrom flags k = errorReport flags k ++ errorReportsFrom flags (k + 1) := by
  rw [errorReportsFrom, drop_range_five hk, List.flatMap_cons, errorReportsFrom]

theorem errorCallbacksFrom_of_lt (hk : k < 5) :
    errorCallbacksFrom flags k = (flags.getLsbD k).toNat + errorCallbacksFrom flags (k + 1) := by
  rw [errorCallbacksFrom, drop_range_five hk, List.countP_cons, ← errorCallbacksFrom, Nat.add_comm]
  cases flags.getLsbD k <;> rfl

/-- One error word reports the flags from bit 0 up. -/
theorem errorReports_eq (flags : BitVec 5) : errorReports flags = errorReportsFrom flags 0 := by
  simp [errorReports, errorReportsFrom, List.range, List.range.loop]

theorem State.reportedFrom_five (s : State) (flags : BitVec 5) : s.reportedFrom flags 5 = s := by
  have hnone : (List.range 5).drop 5 = [] := rfl
  ext1 <;> simp [State.reportedFrom, errorReportsFrom, errorCallbacksFrom, tagged, hnone]

/-- The exit of ERH after the reports. -/
theorem State.reportedFrom_leave (htop : s.top = .erh) (flags : BitVec 5) (k m : Nat) :
    (s.reportedFrom flags k).leave.elapsed m = { s.elapsed m with
      stack := s.stack.tail
      mid := s.mid.set [] .erh
      app := s.app.drop (errorCallbacksFrom flags k)
      hist := s.hist ++ tagged .erh (errorReportsFrom flags k) } := by
  have htop' : (s.reportedFrom flags k).top = .erh := htop
  rw [State.leave, htop', State.reportedFrom, htop]
  rfl

/-- Bit `k` and then the later bits are the bits from `k` up. -/
theorem State.reportedFrom_reported (s : State) (hk : k < 5) :
    (s.reported flags k).reportedFrom flags (k + 1) = s.reportedFrom flags k := by
  have htop : (s.reported flags k).top = s.top := rfl
  rw [State.reportedFrom, htop, State.reported]
  simp only [append_tagged, ← errorReportsFrom_of_lt hk, List.drop_drop, ← errorCallbacksFrom_of_lt hk]
  rfl

theorem State.reported_quiet (m : Nat) : (s.reported flags k).quiet m = s.quiet m := rfl

/-- An APP silent from bit `k` up is silent from the next bit up, once it has returned from the callback of bit `k`. -/
theorem Silent.reported (hk : k < 5) (h : Silent flags k s.app) : Silent flags (k + 1) (s.reported flags k).app := by
  intro cs hcs
  refine h cs (List.mem_of_mem_drop (i := (flags.getLsbD k).toNat) ?_)
  rwa [List.drop_take, errorCallbacksFrom_of_lt hk, Nat.add_sub_cancel_left]

/-- An APP silent from a set bit up issues nothing in the callback of that bit. -/
theorem Silent.appCommands (hk : k < 5) (hset : flags.getLsbD k = true) (h : Silent flags k s.app) :
    s.appCommands = [] := by
  rw [State.appCommands]
  cases happ : s.app with
  | nil => rfl
  | cons cs later =>
    refine h cs ?_
    rw [happ, errorCallbacksFrom_of_lt hk, hset, Bool.toNat_true, Nat.add_comm, List.take_succ_cons]
    exact List.mem_cons_self

/-- One micro-step of ERR for a silent APP: the flag is reported or passed over, and the rule goes on at the next
(spec 44 R175). -/
theorem runRule_err_reports (hk : k < 5) (happ : Silent flags k s.app) :
    runRule (.err flags) (microErr flags) (n + 1) (k + 1) s =
      proceed (.err flags) (runRule (.err flags) (microErr flags) n) (k + 2) (s.reported flags k) := by
  obtain ⟨⟨flag, ev⟩, hev⟩ : ∃ p, errorOfBit k = some p := by interval_cases k <;> exact ⟨_, rfl⟩
  rw [runRule_succ]
  cases hset : flags.getLsbD k with
  | true =>
    have hmade : ((s.record (.busClr flag)).record (.cb ev)).appTaken = s.reported flags k := by
      ext1 <;> simp [State.reported, errorReport, hev, hset, tagged]
    rw [microErr_reports hev hset, ← hmade]
    exact emitted_silent _ _ _ _ ev (happ.appCommands hk hset)
  | false =>
    have hpassed : s.reported flags k = s := by ext1 <;> simp [State.reported, errorReport, hev, hset, tagged]
    rw [microErr_passes hk hset, hpassed]

/-- With `m` bits left ERR reports each set one among them and exits, for a silent APP and no word falling due
(spec 44 R175, R178). -/
theorem proceed_err_reports (hm : k + m = 5) (hn : m ≤ n) (hq : s.quiet (m + 1) = true)
    (happ : Silent flags k s.app) :
    proceed (.err flags) (runRule (.err flags) (microErr flags) n) (k + 1) s =
      .next ((s.reportedFrom flags k).leave.elapsed (m + 2)) := by
  induction m generalizing k n s with
  | zero =>
    obtain rfl : k = 5 := hm
    rw [proceed_ended _ _ _ _ (Nat.lt_succ_self 5), State.reportedFrom_five]
    exact ruleEnded_exits rfl hq
  | succ m ih =>
    obtain ⟨n, rfl⟩ : ∃ n', n = n' + 1 := ⟨n - 1, by omega⟩
    have hk : k < 5 := by omega
    have hq1 : s.quiet 1 = true := State.quiet_mono (by omega) hq
    have hlater : ((s.elapsed 1).reported flags k).quiet (m + 1) = true := by
      rw [State.reported_quiet, State.elapsed_quiet _ hq1, Nat.add_comm]
      exact hq
    have happ1 : Silent flags k (s.elapsed 1).app := happ
    have hrest := ih (by omega) (Nat.le_of_succ_le_succ hn) hlater (happ1.reported hk)
    rw [proceed_quiet _ _ _ _ hk hq1, runRule_err_reports hk happ1, hrest, State.reportedFrom_reported _ hk]
    refine congrArg _ ((State.elapsed_elapsed (s.reportedFrom flags k).leave 1 (m + 2)).trans ?_)
    rw [Nat.add_comm 1]

/-- ERR resumed at the micro-step of bit `k` reports each set flag from there up and exits. -/
theorem resume_err_reports (hk : k < 5) (hq : s.quiet (5 - k) = true) (happ : Silent flags k s.app) :
    resume (.err flags) (k + 1) s = .next ((s.reportedFrom flags k).leave.elapsed (6 - k)) := by
  have hbits : 4 - k + 1 = 5 - k := by omega
  have hmoments : 4 - k + 2 = 6 - k := by omega
  rw [← hbits] at hq
  rw [← hmoments, ← State.reportedFrom_reported s hk]
  exact (runRule_err_reports hk happ).trans (proceed_err_reports (by omega) (by omega) hq (happ.reported hk))

/-- ERR gone on with after the micro-step before that of bit `k` reports each set flag from there up and exits. -/
theorem callbackReturn_err_reports (hk : k ≤ 5) (hq : s.quiet (6 - k) = true) (happ : Silent flags k s.app) :
    callbackReturn (.err flags) (k + 1) s = .next ((s.reportedFrom flags k).leave.elapsed (7 - k)) := by
  have hbits : 5 - k + 1 = 6 - k := by omega
  have hmoments : 5 - k + 2 = 7 - k := by omega
  rw [← hbits] at hq
  rw [← hmoments]
  exact proceed_err_reports (by omega) (Nat.le_trans (Nat.sub_le 5 k) (by decide)) hq happ

/-- Settles O51: ERR begun is ERR resumed at bit 0 in the state its handler enters, and from each bit on it reports what
is left. -/
theorem errReportsEachFlagOnce : Obligations.ErrReportsEachFlagOnce := by
  intro flags s
  refine ⟨fun hgate hq happ => ?begun, fun k hk htop happ => ⟨fun _ hq => ?returned, fun hk hq => ?resumed⟩⟩
  case begun =>
    have hentry := Reaches.entry (i := .err flags) rfl (Bool.and_eq_true_iff.2 hgate) (State.due_of_quiet hq)
    have hreport := resume_err_reports (k := 0) (s := s.entered (.err flags)) (by decide) hq happ
    rw [hentry.answer, hreport, State.reportedFrom_leave rfl, errorReports_eq]
    have hmid : (s.entered (.err flags)).mid.set [] .erh = s.mid.set [] .erh := Mid.set_set_self s.mid [] [] .erh
    rw [hmid]
    rfl
  case returned =>
    exact (callbackReturn_err_reports hk hq happ).trans (congrArg _ (State.reportedFrom_leave htop flags k _))
  case resumed =>
    exact (resume_err_reports hk hq happ).trans (congrArg _ (State.reportedFrom_leave htop flags k _))

/-- `t` has the fields of `s` that ERR might have written, and its history is that of `s` with no STOP added. -/
def LeavesTransfer (s t : State) : Prop :=
  SameTransfer s t ∧ t.clken = s.clken ∧ t.nvic = s.nvic ∧
    ∃ made, t.hist = s.hist ++ made ∧ ∀ c, ⟨c, .busStop⟩ ∉ made

theorem LeavesTransfer.record {a : Action} (ha : a ≠ .busStop) (h : LeavesTransfer s t) :
    LeavesTransfer s (t.record a) := by
  obtain ⟨htransfer, hclken, hnvic, made, hhist, hstop⟩ := h
  refine ⟨htransfer, hclken, hnvic, made ++ [⟨t.top, a⟩], ?_, fun c hc => ?_⟩
  · rw [State.record_hist, hhist, List.append_assoc]
  · obtain hc | hc := List.mem_append.1 hc
    · exact hstop c hc
    · exact ha (congrArg Record.action (List.mem_singleton.1 hc)).symm

/-- The bookkeeping makes no record but that of a callback. -/
theorem kept_leavesTransfer (s : State) : Kept (LeavesTransfer s) :=
  ⟨fun _ _ => id, fun _ _ => id, fun _ _ => id, fun _ _ => LeavesTransfer.record nofun, fun _ _ => id, fun _ => id⟩

/-- A micro-step of ERR clears a flag or does nothing. -/
theorem microErr_keeps {P : State → Prop} (hclear : ∀ s f, P s → P (s.record (.busClr f))) (k : Nat) (s : State)
    (hs : P s) : (microErr flags k s).Leaves P := by
  unfold microErr
  split
  · split_ifs
    · exact hclear s _ hs
    · exact hs
  · exact hs

/-- Settles O52: neither the clears of the flags, nor the callbacks' records, nor the bookkeeping writes a field or
makes a STOP. -/
theorem errLeavesTheTransfer : Obligations.ErrLeavesTheTransfer := by
  intro flags s t hrun
  have hmicro := microErr_keeps (flags := flags) (P := LeavesTransfer s) fun _ _ => LeavesTransfer.record nofun
  have hleaves : LeavesTransfer s t :=
    hrun.keeps_of_microOf (kept_leavesTransfer s) hmicro
      ⟨⟨rfl, rfl, rfl, rfl⟩, rfl, rfl, [], (List.append_nil _).symm, fun _ => List.not_mem_nil⟩
  obtain ⟨⟨hctx, hcfg, hctl, hmem⟩, hclken, hnvic, made, hhist, hstop⟩ := hleaves
  refine ⟨hctx, hcfg, hctl, hclken, hnvic, hmem, ?_⟩
  rwa [hhist, List.drop_left]

end Sys2Proof.Machine
end

section
/-! The Close commands (spec 45 R185 to R189): what either one leaves, a second one after it, and the gates then. -/

namespace Sys2Proof.Machine

/-- The state a Close that no word interrupts leaves (spec 45 R185); `exec_close` ties it to the two commands. -/
def State.closed (s : State) : State :=
  { s.elapsed 4 with
    ctx := { s.ctx with rem := 0, state := .ready }
    ctl := { s.ctl with itevten := false, itbufen := false, ack := s.cfg.ack }
    hist := s.hist ++ tagged s.top [.ctl .itevten 0, .ctl .itbufen 0, .ctl .ack (bit s.cfg.ack)] }

@[simp] theorem State.closeStep_pres (s : State) (k : Nat) : (s.closeStep k).pres = s.pres := by
  obtain ⟨_, _, hpres, _⟩ := State.setting_eq_iff.1 (s.closeStep_setting k)
  exact hpres

section Close

variable {i : Instr} {s : State}

/-- Either Close past its guards, with no word due before its last micro-step, makes the four Close steps in one step
(spec 45 R188). -/
theorem exec_close (hi : i = .closetx ∨ i = .closerx) (hclk : s.clken = true)
    (hrace : s.stack.tail.any s.midRule = false) (hq : s.quiet 3 = true) : exec i s = .next s.closed := by
  have hguard := (State.contextGuard_eq_none s).2 ⟨hclk, hrace⟩
  have hpres k t := State.closeStep_pres t k
  rw [State.closed, ← State.after_closeStep]
  obtain rfl | rfl := hi <;> exact exec_command_straight hpres rfl hguard rfl hq fun _ => rfl

/-- Closing a closed state adds the same records and changes nothing else (spec 45 R189). -/
theorem State.closed_closed (s : State) :
    s.closed.closed = { s.closed.elapsed 4 with hist := s.closed.hist ++ s.closed.hist.drop s.hist.length } := by
  have hrecords : s.closed.hist.drop s.hist.length =
      tagged s.top [.ctl .itevten 0, .ctl .itbufen 0, .ctl .ack (bit s.cfg.ack)] := List.drop_left
  rw [hrecords]
  rfl

/-- A closed state is as quiet as the state before was after the Close's four moments. -/
theorem State.closed_quiet (k : Nat) (hq : s.quiet 4 = true) : s.closed.quiet k = s.quiet (4 + k) :=
  State.elapsed_quiet k hq

/-- A Close shuts the gate of the event line, for TXE and RXNE too (spec 42 R140, 45 R185). -/
theorem State.closed_eventGate (s : State) (buffered : Bool) : s.closed.eventGate buffered = false := by
  simp [State.eventGate, State.closed]

/-- An event word is gated by the event line (spec 42 R140). -/
theorem gateOf_event (hc : isCommand i = false) (herr : ∀ flags, i ≠ .err flags) :
    ∃ buffered, gateOf i s = s.eventGate buffered := by
  cases i with
  | evRxne | evTxe => exact ⟨true, rfl⟩
  | evSb | evAddr | evBtf | evStopf => exact ⟨false, rfl⟩
  | err flags => exact absurd rfl (herr flags)
  | _ => cases hc

end Close

/-- Settles O30: the two commands have one guard and one list of micro-steps. -/
theorem closeRunsTheCloseSteps : Obligations.CloseRunsTheCloseSteps := by
  refine ⟨spells_of_encode rfl rfl, spells_of_encode rfl rfl, fun s hstop => ?stopped, fun _ _ => rfl,
    fun s hclk hrace hq => ⟨exec_close (.inl rfl) hclk hrace hq, exec_close (.inr rfl) hclk hrace hq⟩⟩
  case stopped =>
    cases hguard : s.contextGuard with
    | none =>
      obtain ⟨hclk, hrace⟩ := (State.contextGuard_eq_none s).1 hguard
      simp [hclk, hrace] at hstop
    | some c =>
      have hsend := exec_command_guarded (i := .closetx) rfl hguard
      exact hsend.trans (exec_command_guarded (i := .closerx) rfl hguard).symm

/-- Settles O31: the first Close leaves the guards passed, and the second closes a closed state. -/
theorem closeTwiceIsCloseOnce : Obligations.CloseTwiceIsCloseOnce := by
  intro i j s t hi hj hclk hrace hq hfirst
  cases hfirst.symm.trans (exec_close hi hclk hrace (State.quiet_mono (by decide) hq))
  have hquiet : s.closed.quiet 3 = true := (State.closed_quiet 3 (State.quiet_mono (by decide) hq)).trans hq
  rw [exec_close (s := s.closed) hj hclk hrace hquiet, State.closed_closed]

/-- Settles O32: both event sources are off after a Close, and the error source is as it was. -/
theorem closeEndsEventDelivery : Obligations.CloseEndsEventDelivery := by
  intro i s t hi hclk hrace hq hclose
  cases hclose.symm.trans (exec_close hi hclk hrace hq)
  refine ⟨fun j hj herr => ?_, rfl⟩
  obtain ⟨buffered, hgate⟩ := gateOf_event (s := s.closed) hj herr
  exact exec_ungated hj (.inl (hgate.trans (s.closed_eventGate buffered)))

end Sys2Proof.Machine
end

section
/-! Which move a step takes (spec 60 R210, R215, R216, R221, R229): the input a port takes, a word off its port, and
what the running context has unfinished. -/

namespace Sys2Proof.Machine

section Ports

variable {a : Agent} {w : Word} {ws rest : List Word} {i : Instr}

/-- MAIN and APP may issue the words of a command (spec 60 R221). -/
theorem issues_of_decode_command (ha : a = .main ∨ a = .app) (hc : isCommand i = true)
    (hdec : decode (w :: ws) = .instr i rest) : a.issues (portClass w) = true := by
  rcases portClass_of_decode hdec with ⟨-, hw⟩ | ⟨hnot, -⟩
  · rcases ha with rfl | rfl <;> rw [hw] <;> rfl
  · exact absurd (hc.symm.trans hnot) Bool.noConfusion

/-- PERIPH may present the word of an event or error (spec 60 R221). -/
theorem issues_of_decode_event (hc : isCommand i = false) (hdec : decode (w :: ws) = .instr i rest) :
    Agent.periph.issues (portClass w) = true := by
  rcases portClass_of_decode hdec with ⟨hcmd, -⟩ | ⟨-, hw | hw⟩
  · exact absurd (hcmd.symm.trans hc) Bool.noConfusion
  all_goals rw [hw]; rfl

/-- MAIN and APP may not issue an event or error word (spec 60 R221). -/
theorem issues_event_eq_false (ha : a = .main ∨ a = .app) (hw : portClass w = .event ∨ portClass w = .error) :
    a.issues (portClass w) = false := by
  rcases ha with rfl | rfl <;> rcases hw with hw | hw <;> rw [hw] <;> rfl

end Ports

section Unfinished

variable {s : State} {i : Instr} {k : Nat} {fs : List Frame}

/-- A waiting rule resumes (spec 60 R215, R229 move 2). -/
theorem fetchOwn_rule (hfr : s.frames = .rule i k :: fs) : fetchOwn s = .answer (resume i k (s.setFrames fs)) := by
  simp only [fetchOwn, hfr]

/-- An open callback with no command left returns to its rule (spec 60 R216). -/
theorem fetchOwn_return {ev : AppEvent} (hfr : s.frames = .callback ev [] :: .rule i k :: fs) :
    fetchOwn s = .answer (callbackReturn i k (s.setFrames fs)) := by
  simp only [fetchOwn, hfr]

/-- A handler with nothing left exits (spec 60 R215, R229 move 5). -/
theorem fetchOwn_exit (hfr : s.frames = []) (htop : s.top ≠ .main) : fetchOwn s = .answer (.next s.leave.elapse) := by
  cases h : s.top with
  | main => exact absurd h htop
  | evh | erh => simp only [fetchOwn, hfr, h]

end Unfinished

/-- Settles O8: an input's words are on the port of the agent that puts them out, so they are executed. -/
theorem stepRunsTheDecodedInput : Obligations.StepRunsTheDecodedInput := by
  intro s w ws rest i hf
  refine ⟨fun hc hd hdec => ⟨fun hfr htop hin => ?main, fun ev fs hfr => ?app⟩, fun ps hc hp hdec => ?periph⟩
  case main =>
    rw [step, fetch_own hf hd, fetchOwn_main hfr htop hin,
      fetchInput_instr (issues_of_decode_command (.inl rfl) hc hdec) hdec]
  case app =>
    rw [step, fetch_own hf hd, fetchOwn_callback hfr,
      fetchInput_instr (issues_of_decode_command (.inr rfl) hc hdec) hdec]
    rfl
  case periph =>
    rw [step, fetch_due hf hp, fetchInput_instr (issues_of_decode_event hc hdec) hdec]

/-- Settles O9: with no word due the running context moves, by the innermost of what it has begun. -/
theorem stepRunsWhatIsUnfinished : Obligations.StepRunsWhatIsUnfinished := by
  intro s hf hd
  refine ⟨fun i k fs hfr => ?resumes, fun ev i k fs hfr => ?returns, fun hfr htop => ?exits⟩ <;>
    rw [step, fetch_own hf hd]
  case resumes => rw [fetchOwn_rule hfr]; rfl
  case returns => rw [fetchOwn_return hfr]; rfl
  case exits => rw [fetchOwn_exit hfr htop]; rfl

/-- Settles O10: no agent issues a word of another's port. -/
theorem wordsOnTheWrongPortHaveNoMove : Obligations.WordsOnTheWrongPortHaveNoMove := by
  intro s hf
  refine ⟨fun w ps hp hw => ?periph, fun w ws hw hd => ⟨fun hfr htop hin => ?main, fun ev fs hfr => ?app⟩⟩
  case periph =>
    have hport : Agent.periph.issues (portClass w) = false := by rw [hw]; rfl
    rw [step, fetch_due hf hp, fetchInput_off hport]
  case main =>
    rw [step, fetch_own hf hd, fetchOwn_main hfr htop hin, fetchInput_off (issues_event_eq_false (.inl rfl) hw)]
  case app =>
    rw [step, fetch_own hf hd, fetchOwn_callback hfr, fetchInput_off (issues_event_eq_false (.inr rfl) hw)]

end Sys2Proof.Machine
end

section
/-! Preemption, handler entry, and the race of a command with a rule below it (spec 60 R210 to R214). -/

namespace Sys2Proof.Machine

section Preemption

variable {s : State} {l running : Line}

/-- Above MAIN a handler may start unless it is on the stack (spec 60 R210). -/
theorem State.mayPreempt_main_iff (htop : s.top = .main) : s.mayPreempt l = true ↔ handlerOf l ∉ s.stack := by
  simp [State.mayPreempt, htop]

/-- Above a handler it must besides have a strictly lower priority number (spec 60 R210). -/
theorem State.mayPreempt_handler_iff (htop : s.top = handlerOf running) :
    s.mayPreempt l = true ↔ handlerOf l ∉ s.stack ∧ (s.nvic.prio l).toNat < (s.nvic.prio running).toNat := by
  cases running with
  | ev | er => rw [handlerOf] at htop; simp [State.mayPreempt, htop]

/-- A handler on the stack does not start again (spec 60 R210, R211). -/
theorem State.mayPreempt_of_mem_stack (hon : handlerOf l ∈ s.stack) : s.mayPreempt l = false := by
  simp [State.mayPreempt, hon]

end Preemption

/-- Settles O36, by the running context. -/
theorem preemptionNeedsStrictPriority : Obligations.PreemptionNeedsStrictPriority := by
  intro s l
  refine ⟨State.mayPreempt_of_mem_stack, fun hoff htop => (State.mayPreempt_main_iff htop).2 hoff,
    fun hoff htop => ?_, fun hoff htop => ?_⟩
  · exact (State.mayPreempt_handler_iff (l := .er) (running := .ev) htop).trans (and_iff_right hoff)
  · exact (State.mayPreempt_handler_iff (l := .ev) (running := .er) htop).trans (and_iff_right hoff)

/-- A handler's entry with its rule put at micro-step 1 writes the stack and `mid[H]` alone (spec 60 R214). -/
theorem State.entered_suspend (s : State) (i : Instr) : (s.entered i).suspend i 1 = { s with
    stack := handlerOf (lineOfInput i) :: s.stack, mid := s.mid.set [.rule i 1] (handlerOf (lineOfInput i)) } := by
  rw [State.suspend, State.entered_frames]
  ext1 <;> simp [State.entered]

/-- Settles O37: a handler that starts with another word due waits at its entry. -/
theorem handlerEntrySavesNothing : Obligations.HandlerEntrySavesNothing := by
  intro msl tra flags s hd
  have hentry {i : Instr} (hc : isCommand i = false) (hstarts : s.starts i = true) :=
    (exec_waits_at_entry hc hstarts hd).trans (congrArg _ (s.entered_suspend i))
  refine ⟨fun i hi hgate => ?plain, fun i hi hgate => ?buffered, fun hgate => ?error⟩
  case plain =>
    obtain ⟨hsb, haddr, hbtf, hstopf⟩ := starts_of_eventStarts hgate msl tra
    fin_cases hi
    exacts [hentry rfl hsb, hentry rfl haddr, hentry rfl hbtf, hentry rfl hstopf]
  case buffered =>
    obtain ⟨htxe, hrxne⟩ := starts_of_eventStarts_buffered hgate msl tra
    fin_cases hi
    exacts [hentry rfl hrxne, hentry rfl htxe]
  case error => exact hentry (i := .err flags) rfl (Bool.and_eq_true_iff.2 hgate)

/-- A context-writing command is guarded by the clock, then by the contexts below (spec 60 R212). -/
theorem guardOf_contextWriting {i : Instr} (hi : contextWriting i = true) (s : State) :
    isCommand i = true ∧ guardOf i s = s.contextGuard := by
  cases i with
  | init | deinit | mtx | mrx | closetx | closerx => exact ⟨rfl, rfl⟩
  | _ => cases hi

/-- With the clock on, a context below that is mid-rule makes the guard raise CONTEXT_RACE (spec 60 R212). -/
theorem State.contextGuard_race {s : State} (hclk : s.clken = true) (hrace : s.stack.tail.any s.midRule = true) :
    s.contextGuard = some .contextRace := by
  rw [State.contextGuard, if_pos hclk, if_pos hrace]

/-- Settles O14: the guard comes before any effect of the six commands. -/
theorem contextRaceFaults : Obligations.ContextRaceFaults := by
  intro i s hi hclk hrace
  obtain ⟨hc, hguard⟩ := guardOf_contextWriting hi s
  exact exec_command_guarded hc (hguard.trans (State.contextGuard_race hclk hrace))

end Sys2Proof.Machine
end
